-- ==== Sys2Proof/Word.lean ====
section
/-!
DEFINITION. The word types of the Rothen 412: bytes of a frame, check codes, the set of event flags, a line of dots
and the lanes of the bay bus.
-/

namespace Sys2Proof

/-- One byte of a frame, of a record or of image memory. -/
abbrev Byte := BitVec 8

/-- A CRC-32 or a digest (spec/00_scope.md, Check codes). -/
abbrev Crc32 := BitVec 32

/-- A CRC-16 (spec/00_scope.md, Check codes). -/
abbrev Crc16 := BitVec 16

/-- A set of event flags: bit 0 is RESET and bits 1 to 13 follow the order of spec 12.1. -/
abbrev FlagSet := BitVec 14

/-- The dots of one raster line: bit x is the dot at column x (R155). -/
abbrev DotSet := BitVec 1440

/-- The sixteen data lanes of the bay bus (5.1): bit n is lane n. -/
abbrev Lanes := BitVec 16

/-- A master link, 0 to 2. -/
abbrev Link := Fin 3

/-- A burner bay, 0 to 9. -/
abbrev BayNum := Fin 10

/-- An image slot, 0 to 7. -/
abbrev SlotNum := Fin 8

/-- A job record, 0 to 11. -/
abbrev JobNum := Fin 12

/-- A spindle, 0 or 1. -/
abbrev SpindleNum := Fin 2

/-- A broadcast session number, 0 to 3. -/
abbrev SessionNum := Fin 4

/-- A readback place, 0 or 1. -/
abbrev PlaceNum := Fin 2

end Sys2Proof
end

