-- ==== Sys2Proof/Config.lean ====
section
/-!
DEFINITION. What the spec fixes for every Rothen 412: sizes, capacities, and the timers of fixed length in
milliseconds. The spec leaves no value free, so there is no opaque constant here.
-/

namespace Sys2Proof.Config

/-- Bytes in a block (spec/00_scope.md, Units). -/
abbrev blockBytes : Nat := 65536

/-- Bytes in a chunk of image memory: 32 blocks (R1). -/
abbrev chunkBytes : Nat := 2097152

/-- Chunks of image memory (R1). -/
abbrev chunks : Nat := 16384

/-- The longest payload of a frame (R186). -/
abbrev maxPayload : Nat := 240

/-- Entries the results ring holds (R203). -/
abbrev ringSize : Nat := 64

/-- The housekeeping timer, 5 s (R79). -/
abbrev housekeepingMs : Nat := 5000

/-- The probe timer, 5 s (R80). -/
abbrev probeMs : Nat := 5000

/-- The attention hold-off, 100 ms (R100). -/
abbrev holdOffMs : Nat := 100

/-- The pause after a round of yields, 1 ms (R110). -/
abbrev grantPauseMs : Nat := 1

/-- The prepare deadline, 90 s (R112). -/
abbrev prepareMs : Nat := 90000

/-- The close deadline, 300 s (R112). -/
abbrev closeMs : Nat := 300000

/-- The silence timer of a readback, 10 s (R139). -/
abbrev silenceMs : Nat := 10000

/-- The hot timer, 120 s (R166). -/
abbrev hotMs : Nat := 120000

/-- The periodic timer of HEAD and of AMBIENT, 1 s (R177, R178). -/
abbrev sampleMs : Nat := 1000

/-- A quarter second, the unit of the stall time and of the timers in a record. -/
abbrev quarterMs : Nat := 250

end Sys2Proof.Config
end

