-- ==== Sys2Proof/Syntax.lean ====
section
/-!
DEFINITION. The commands of the Rothen 412: one constructor of `Instr` for each row of spec/opcode_table.json.

A command that a master sends is a frame on a link (R185). Its operands are the link, the payload bytes of the frame
(laid out as 12.3 gives) and the number of fill bytes that the master clocks after the check. The code, the payload
length and the CRC of such a frame are those that belong to it, since the row is a frame that passed its checks
(R186 to R188); a frame given byte for byte is `discardedFrame`, and so is a select without a whole byte (R185).
The other commands are the events of the drives, the timers and the pins; their operands are what the part reads as
the event is taken: lines, lanes, switches, sensor values, a status record or a readback block.
-/

namespace Sys2Proof

/-- Media of a job, a spindle or a drive (12.4). -/
inductive Media where
  | cd | dvd | bd
  deriving DecidableEq, Repr

/-- The drive states of a status record (R103). -/
inductive DriveState where
  | idle | prepared | prepareFailed | writing | burnDone | burnFailed | reading | readDone | cleared
  deriving DecidableEq, Repr

/-- A status record as the drive sends it (R103): nothing in it is settled yet. -/
structure StatusRecord where
  driveState : DriveState
  discPresent : Bool
  /-- the kind of disc the drive has identified, or none -/
  mediaPresent : Option Media
  /-- signed quarter degrees as the drive measures them -/
  temperature : Int
  stallCount : Byte
  errorCode : Option Byte
  /-- maximum speeds for CD, DVD and BD, 0 to 255 -/
  speedCd : Byte
  speedDvd : Byte
  speedBd : Byte
  deriving DecidableEq, Repr

/-- The commands. -/
inductive Instr where
  -- image store
  | imageOpen (link : Link) (payload : List Byte) (fill : Nat)
  | imageWrite (link : Link) (slot : Byte) (index : BitVec 32) (data : List Byte) (fill : Nat)
  | imageFreeze (link : Link) (payload : List Byte) (fill : Nat)
  | imageRetire (link : Link) (payload : List Byte) (fill : Nat)
  | imageThaw (link : Link) (payload : List Byte) (fill : Nat)
  | imageStatus (link : Link) (payload : List Byte) (fill : Nat)
  -- jobs
  | jobDefine (link : Link) (payload : List Byte) (fill : Nat)
  | jobAmend (link : Link) (payload : List Byte) (fill : Nat)
  | jobQueue (link : Link) (payload : List Byte) (fill : Nat)
  | jobHalt (link : Link) (payload : List Byte) (fill : Nat)
  | jobResume (link : Link) (payload : List Byte) (fill : Nat)
  | jobCancel (link : Link) (payload : List Byte) (fill : Nat)
  | jobRemove (link : Link) (payload : List Byte) (fill : Nat)
  | jobStatus (link : Link) (payload : List Byte) (fill : Nat)
  -- disc flow
  | moveNext (link : Link) (payload : List Byte) (fill : Nat)
  | moveDone (link : Link) (payload : List Byte) (fill : Nat)
  | moveFailedNoDisc (link : Link) (payload : List Byte) (fill : Nat)
  | moveFailedDropped (link : Link) (payload : List Byte) (fill : Nat)
  | moveFailedJam (link : Link) (payload : List Byte) (fill : Nat)
  | flowResume (link : Link) (payload : List Byte) (fill : Nat)
  | spindleReport (link : Link) (payload : List Byte) (fill : Nat)
  | binReport (link : Link) (payload : List Byte) (fill : Nat)
  | discRead (link : Link) (payload : List Byte) (fill : Nat)
  -- bays
  | bayEnable (link : Link) (payload : List Byte) (fill : Nat)
  | bayDisable (link : Link) (payload : List Byte) (fill : Nat)
  | bayStatus (link : Link) (payload : List Byte) (fill : Nat)
  | housekeepingTimerExpiry (bay : BayNum)
  | probeTimerExpiry (bay : BayNum)
  -- bay bus: `ready` is the READY line, `lanes` the data lanes, `attn` the ATTN line, as the part reads them
  | serviceRound
  | grant (ready : Bool)
  | grantPauseExpiry
  | busCommandTaken (lanes : Lanes) (attn : Bool)
  | busCommandLimit (lanes : Lanes) (attn : Bool)
  | messageTaken
  | messageLimit
  | blockAccepted
  | blockAbandoned
  | readbackBlockTaken (data : List Byte) (trailer : Byte)
  | readbackTurnEmpty
  | statusReadAnswered (record : StatusRecord) (attn : Bool)
  | statusReadUnanswered (attn : Bool)
  | attnRise
  | attentionHoldOffExpiry (attn : Bool)
  -- burn sets
  | burnSettings (link : Link) (payload : List Byte) (fill : Nat)
  | sessionStatus (link : Link) (payload : List Byte) (fill : Nat)
  | gatherTimerExpiry (session : SessionNum)
  | prepareDeadlineExpiry (session : SessionNum)
  | stallTimerExpiry (session : SessionNum)
  | closeDeadlineExpiry (session : SessionNum)
  -- verification
  | blockProcessed (place : PlaceNum)
  | silenceTimerExpiry (place : PlaceNum)
  | verifyLimits (link : Link) (payload : List Byte) (fill : Nat)
  | verifyStatus (link : Link) (payload : List Byte) (fill : Nat)
  -- label printing: `value` is what the head sensor reads; `breakShown` and `trayShown` are the two switches
  | lineBegin (value : Int)
  | lineFired
  | coolingGapEnd
  | hotTimerExpiry
  | ribbonBreak
  | printSettings (link : Link) (payload : List Byte) (fill : Nat)
  | ribbonLoaded (link : Link) (payload : List Byte) (fill : Nat) (breakShown : Bool)
  | printerStatus (link : Link) (payload : List Byte) (fill : Nat) (breakShown : Bool) (trayShown : Bool)
  -- thermal monitor
  | headPeriodicSample (value : Int)
  | ambientPeriodicSample (value : Int)
  | thermalLimits (link : Link) (payload : List Byte) (fill : Nat)
  | thermalRead (link : Link) (payload : List Byte) (fill : Nat)
  -- links, events and results
  | summaryRead (link : Link) (sent : Byte)
  | nullCommand (link : Link) (payload : List Byte) (fill : Nat)
  | discardedFrame (link : Link) (bytes : List Byte)
  | linkReset (link : Link) (payload : List Byte) (fill : Nat)
  | eventsRead (link : Link) (payload : List Byte) (fill : Nat)
  | eventsClear (link : Link) (payload : List Byte) (fill : Nat)
  | eventsMask (link : Link) (payload : List Byte) (fill : Nat)
  | resultsRead (link : Link) (payload : List Byte) (fill : Nat)
  -- resets: the pins and sensors as the part leaves the reset; bit n of `selectLow` says LnSEL# is low
  | towerReset
  | resetRelease (strapTied : Bool) (trayShown : Bool) (breakShown : Bool) (head : Int) (ambient : Int)
      (selectLow : BitVec 3)
  deriving DecidableEq, Repr

end Sys2Proof
end

