-- ==== Sys2Proof/Decode.lean ====
section
/-!
DEFINITION. The decoding of table words. spec/opcode_table.json gives none of its rows bits, so no word spells a
command; the frames of a master link are judged in Machine/Frames.lean.
-/

namespace Sys2Proof

/-- The command that a word spells by the table's bits: no row gives any. -/
def decodeTableWord (_nbits _w : Nat) : Option Instr := none

end Sys2Proof
end

