-- ==== Sys2Proof/Machine/State.lean ====
section
/-!
DEFINITION. The state of the Rothen 412 as plain data, and `State.reset`.

Times are milliseconds remaining; `none` is a timer that does not run. Enumerations follow the lists of 12.4.
Layers: `Part` is what the blocks of the part hold; `State` adds the queue of commands, image memory, the frame side
of the links and the input pins, which no internal operation of a block touches.
-/

namespace Sys2Proof.Machine

/-! ## Faults and refusals -/

/-- Why the machine stops with a fault. -/
inductive Fault where
  /-- Raised by IMAGE_WRITE, GRANT and LINE_BEGIN when the place of the block or line lies outside the 32 GiB of image
  memory (R1), which no extent that first fit gives can bring about (R2). Safe: the machine stops where the spec gives
  no meaning. -/
  | outsideImageMemory
  deriving DecidableEq, Repr

/-- Why a command is given no meaning. -/
inductive Refusal where
  /-- Raised by `exec` alone, for a command that has no meaning yet; every command has one. Safe. -/
  | notModelled (mnemonic : String)
  deriving DecidableEq, Repr

/-! ## Image store (chapter 1) -/

/-- The kind of an image (12.4). -/
inductive ImageKind where
  | disc | label
  deriving DecidableEq, Repr

/-- The states of a slot that holds an image (R4); EMPTY is the absence of a `Slot`. -/
inductive SlotState where
  | filling | frozen | retiring
  deriving DecidableEq, Repr

/-- The record of a slot that is not EMPTY (R3). Block count, chunk count and extent are derived from it. -/
structure Slot where
  kind : ImageKind
  state : SlotState
  /-- declared length, in sectors or in raster lines -/
  length : Nat
  /-- fill cursor -/
  fill : Nat
  /-- first chunk of the extent -/
  first : Nat
  /-- reference count -/
  refs : Nat
  /-- running chunk CRC -/
  crc : Option Crc32
  /-- chunk digests, in chunk order -/
  digests : List Crc32
  /-- image digest -/
  digest : Option Crc32
  deriving DecidableEq, Repr

/-! ## Jobs (chapter 2) -/

/-- Job states (R22). -/
inductive JobState where
  | draft | queued | running | halting | halted | cancelling | done | cancelled
  deriving DecidableEq, Repr

/-- Verify modes (12.4). -/
inductive VerifyMode where
  | none | digest | graded
  deriving DecidableEq, Repr

/-- Grades, A best (R146). -/
inductive Grade where
  | a | b | c | d
  deriving DecidableEq, Repr

/-- Halt reasons (R21). -/
inductive HaltReason where
  | operator | rejectLimit
  deriving DecidableEq, Repr

/-- The definition fields of a job record (R21). -/
structure JobDef where
  discSlot : SlotNum
  media : Media
  target : Nat
  setSize : Nat
  speed : Nat
  verify : VerifyMode
  gradeLimit : Option Grade
  stallAllowance : Nat
  labelSlot : Option SlotNum
  trim : Int
  rejectLimit : Nat
  deriving DecidableEq, Repr

/-- A held job record (R21); its in flight count is derived from the disc table. -/
structure Job where
  state : JobState
  defn : JobDef
  picked : Nat
  accepted : Nat
  rejected : Nat
  haltReason : Option HaltReason
  deriving DecidableEq, Repr

/-! ## Disc flow (chapter 3) -/

/-- A place where a disc may be (3.1). -/
inductive Position where
  | spindle (n : SpindleNum)
  | bay (n : BayNum)
  | tray
  | acceptBin
  | rejectBin
  deriving DecidableEq, Repr

/-- Disc states (R46). -/
inductive DiscState where
  | bound | loaded | burning | burned | verifyWait | verifying | passed | printWait | printing | printed | failed
  deriving DecidableEq, Repr

/-- Reject reasons (R44). -/
inductive RejectReason where
  | burnError | calibration | laggard | verifyMismatch | verifyUnreadable | grade | printFault | cancelled | dropped
  | orphan
  deriving DecidableEq, Repr

/-- A disc record (R44). -/
structure Disc where
  id : Nat
  job : Option JobNum
  state : DiscState
  position : Position
  destination : Option Position
  session : Option SessionNum
  loadBay : Option BayNum
  stalls : Option Nat
  grade : Option Grade
  peak : Option Nat
  printed : Bool
  reason : Option RejectReason
  deriving DecidableEq, Repr

/-- Kinds of move, in the order of 12.4 (R59). -/
inductive MoveKind where
  | pick | bayToPrinter | bayToAccept | bayToReject | printerToAccept | printerToReject
  deriving DecidableEq, Repr

/-- A move order (R59); its class is fixed by its kind. -/
structure Order where
  kind : MoveKind
  disc : Nat
  source : Position
  target : Position
  /-- creation sequence -/
  seq : Nat
  deriving DecidableEq, Repr

/-- What the disc flow controller holds. -/
structure Flow where
  /-- the disc table, in order of disc id (R45) -/
  discs : List Disc
  /-- the next identifier (R45) -/
  nextId : Nat
  /-- the move queue, by class and then by creation sequence (R59) -/
  queue : List Order
  /-- the next creation sequence -/
  nextSeq : Nat
  /-- the issued-move slot -/
  issued : Option Order
  /-- the flow state: HELD or not (R50) -/
  held : Bool
  /-- spindle records: EMPTY, or LOADED with a media (R48) -/
  spindles : Vector (Option Media) 2
  /-- the accept bin is FULL (R49) -/
  acceptFull : Bool
  /-- the reject bin is FULL (R49) -/
  rejectFull : Bool
  /-- the printer wait list (R57) -/
  waitList : List Nat
  /-- R61's condition "no order issued, and at least one eligible order" as last judged (the model's own) -/
  moveReady : Bool
  /-- R57's condition "tray free, printer IDLE, head's label longer than the ribbon" as last judged (the model's own) -/
  ribbonShort : Bool
  deriving DecidableEq, Repr

/-- Outcome of a disc (R203). -/
inductive DiscOutcome where
  | accepted | rejected
  deriving DecidableEq, Repr

/-- An entry of the results ring (R203). -/
structure ResultEntry where
  disc : Nat
  job : Option JobNum
  outcome : DiscOutcome
  reason : Option RejectReason
  grade : Option Grade
  stalls : Option Nat
  bay : Option BayNum
  printed : Bool
  deriving DecidableEq, Repr

/-! ## Bays (chapter 4) -/

/-- Bay states (R74). -/
inductive BayState where
  | offline | empty | reserved | loaded | burning | burned | verifying | holding
  deriving DecidableEq, Repr

/-- Maximum speeds, 0 meaning not capable (R73). -/
structure Capability where
  cd : Nat
  dvd : Nat
  bd : Nat
  deriving DecidableEq, Repr

/-- A bay record (R73) with its two timers (R79, R80). -/
structure Bay where
  present : Bool
  enabled : Bool
  disablePending : Bool
  capability : Capability
  state : BayState
  disc : Option Nat
  temperature : Option Int
  failures : Nat
  errorCode : Option Nat
  housekeeping : Option Nat
  probe : Option Nat
  deriving DecidableEq, Repr

/-! ## Bay bus (chapter 5) -/

/-- Addressing in force (R92): listeners in ascending bay number, or one talker, or none. -/
inductive Addressing where
  | none
  | listeners (bays : List BayNum)
  | talker (bay : BayNum)
  deriving DecidableEq, Repr

/-- Bus commands (R93). -/
inductive BusCommand where
  | listen (bay : BayNum)
  | talk (bay : BayNum)
  | unaddress
  | go
  | clear (bay : BayNum)
  | clearAll
  | readyPoll
  | servicePoll
  | statusRead (bay : BayNum)
  deriving DecidableEq, Repr

/-- What stands on the bus for a service item (R93, R94): the bus command or message that the part offers, or, once a
STATUS READ has been sent, the record that the part awaits as listener (R98, R102). -/
inductive Offer where
  | command (c : BusCommand)
  | prepare (sectors : Nat) (media : Media) (speed : Nat)
  | close
  | readback (blocks : Nat)
  | record
  deriving DecidableEq, Repr

/-- Service items (R104). A status read says whether a SERVICE POLL produced it (R101). -/
inductive Item where
  | clearAll
  | statusRead (bay : BayNum) (polled : Bool)
  | servicePoll
  | clear (bay : BayNum)
  | prepare (session : SessionNum)
  | go (session : SessionNum)
  | close (session : SessionNum)
  | readyPoll (session : SessionNum)
  | readback (place : PlaceNum)
  deriving DecidableEq, Repr

/-- The item a service round has on the bus. `live` is no once the session that asked for it has ended, so that its
end is told to no one. -/
structure Current where
  item : Item
  live : Bool
  offer : Offer
  deriving DecidableEq, Repr

/-- A turn of the bus (5.7). -/
inductive Turn where
  /-- no turn: a block boundary, a pause, or an idle bus -/
  | none
  /-- a service round: the item under way and the items still to come -/
  | round (current : Option Current) (rest : List Item)
  /-- a broadcast grant with a block on offer -/
  | block (session : SessionNum) (live : Bool) (index : Nat) (data : List Byte)
  /-- a readback grant: the bay talks -/
  | talk (place : PlaceNum) (live : Bool)
  deriving DecidableEq, Repr

/-- An entry of the grant ring (R106). -/
inductive RingEntry where
  | broadcast (session : SessionNum)
  | readback (place : PlaceNum)
  deriving DecidableEq, Repr

/-- What the bay bus controller holds. -/
structure Bus where
  /-- the service work list (R104) -/
  list : List Item
  turn : Turn
  addressing : Addressing
  /-- the addressing commands sent for the latest transfer (R92); an output -/
  sent : List BusCommand
  /-- the grant ring (R106) -/
  ring : List RingEntry
  /-- the grant position (R106) -/
  position : Option RingEntry
  /-- a service round has just ended and the arbiter owes a grant (R105) -/
  afterRound : Bool
  /-- the entries granted without moving a block since R110's count began -/
  fruitless : List RingEntry
  /-- the 1 ms pause (R110) -/
  pause : Option Nat
  /-- a SERVICE POLL has been asked for and has not begun (R100) -/
  pollWanted : Bool
  /-- the attention hold-off (R100) -/
  holdOff : Option Nat
  deriving DecidableEq, Repr

/-! ## Burn set engine (chapter 6) -/

/-- States of a broadcast session (R114); an ENDED session has no record. -/
inductive SessionState where
  | gathering | preparing | priming | streaming | closing
  deriving DecidableEq, Repr

/-- A member of a session: its bay and its answer (R112), PREPARED or AWAITING. -/
structure Member where
  bay : BayNum
  prepared : Bool
  deriving DecidableEq, Repr

/-- A broadcast session (R112). -/
structure Session where
  job : JobNum
  slot : SlotNum
  media : Media
  blockCount : Nat
  state : SessionState
  members : List Member
  cursor : Nat
  primeCount : Option Nat
  speed : Option Nat
  gather : Option Nat
  prepare : Option Nat
  stall : Option Nat
  laggardPoll : Bool
  close : Option Nat
  deriving DecidableEq, Repr

/-- The burn settings (R115): seconds, blocks, quarter seconds. -/
structure BurnSettings where
  gatherTime : Nat
  primeSetting : Nat
  stallTime : Nat
  deriving DecidableEq, Repr

/-- What the burn set engine holds. -/
structure Engine where
  sessions : Vector (Option Session) 4
  waiting : List BayNum
  settings : BurnSettings
  deriving DecidableEq, Repr

/-! ## Verifier (chapter 7) -/

/-- A readback block in the verifier's hands (R140). -/
structure HeldBlock where
  data : List Byte
  trailer : Byte
  deriving DecidableEq, Repr

/-- A readback session (R138); its place is its index. -/
structure Readback where
  bay : BayNum
  disc : Nat
  job : JobNum
  slot : SlotNum
  length : Nat
  blockCount : Nat
  stalls : Nat
  sent : Bool
  taken : Nat
  processed : Nat
  held : List HeldBlock
  crc : Crc32
  errorSum : Nat
  peak : Nat
  silence : Option Nat
  deriving DecidableEq, Repr

/-- The grade limits (R149). -/
structure GradeLimits where
  la : Nat
  lb : Nat
  lc : Nat
  deriving DecidableEq, Repr

/-- What the verifier holds. -/
structure Verifier where
  queue : List BayNum
  places : Vector (Option Readback) 2
  limits : GradeLimits
  deriving DecidableEq, Repr

/-! ## Label printer (chapter 8) -/

/-- Printer states (R154). -/
inductive PrinterState where
  | idle | printing | pausedHot | pausedRibbon | doneWait
  deriving DecidableEq, Repr

/-- Label status (R153). -/
inductive LabelStatus where
  | underWay | finished | aborted | notPrinted
  deriving DecidableEq, Repr

/-- Pace of a line (R153). -/
inductive Pace where
  | full | half
  deriving DecidableEq, Repr

/-- The fields a label brings with it (R153): present from its start until the tray is freed. -/
structure Label where
  slot : SlotNum
  length : Nat
  trim : Int
  cursor : Nat
  /-- the dots printed in the last line -/
  history1 : DotSet
  /-- the dots printed in the line before the last -/
  history2 : DotSet
  deriving DecidableEq, Repr

/-- The last line printed (R153): the reading, the temperature factor and the three strobe times in µs. -/
structure LastLine where
  q : Int
  f : Nat
  t0 : Nat
  t1 : Nat
  t2 : Nat
  deriving DecidableEq, Repr

/-- One strobe of a line (R162): its class, its dots and its time in µs. -/
structure Strobe where
  cls : Fin 3
  dots : DotSet
  time : Nat
  deriving DecidableEq, Repr

/-- The line under way (R158): the printed set and the strobes that fire it. -/
structure Firing where
  printed : DotSet
  strobes : List Strobe
  deriving DecidableEq, Repr

/-- The print settings (R165). -/
structure PrintSettings where
  ri : Nat
  ro : Nat
  kt : Nat
  m0 : Nat
  m1 : Nat
  m2 : Nat
  tmin : Nat
  tmax : Nat
  deriving DecidableEq, Repr

/-- The printer record (R153), the line under way and the cooling gap in µs (R163). -/
structure Printer where
  state : PrinterState
  disc : Option Nat
  status : Option LabelStatus
  label : Option Label
  ribbon : Nat
  strobe : Nat
  pace : Pace
  hot : Option Nat
  last : Option LastLine
  firing : Option Firing
  gap : Option Nat
  settings : PrintSettings
  deriving DecidableEq, Repr

/-! ## Thermal monitor (chapter 9) -/

/-- Condition states (R176). -/
inductive Condition where
  | normal | high | critical
  deriving DecidableEq, Repr

/-- A sensor record (R176); only HEAD and AMBIENT have a periodic timer. -/
structure Sensor where
  reading : Option Int
  condition : Condition
  timer : Option Nat
  deriving DecidableEq, Repr

/-- A pair of limits (R182). -/
structure LimitPair where
  high : Int
  critical : Int
  deriving DecidableEq, Repr

/-- The limits of the three classes of sensor (R182). -/
structure ThermalLimits where
  head : LimitPair
  ambient : LimitPair
  bay : LimitPair
  deriving DecidableEq, Repr

/-- What the thermal monitor holds. -/
structure Thermal where
  head : Sensor
  ambient : Sensor
  bays : Vector Sensor 10
  limits : ThermalLimits
  deriving DecidableEq, Repr

/-! ## Links and responses (chapters 10 and 11) -/

/-- Refusal reasons (10.4), in the order of 12.1. -/
inductive RefusalReason where
  | state | range | tableFull | noSpace | sequence | frozen | notFrozen | inUse | notService | staleMove | noDisc
  deriving DecidableEq, Repr

/-- A response (R189): its code, with its reason and payload where it has them. -/
inductive Response where
  | done (payload : List Byte)
  | doneClamped (payload : List Byte)
  | refused (reason : RefusalReason) (payload : List Byte)
  | crcFault
  | short
  | unknown
  | first
  | idle
  deriving DecidableEq, Repr

/-- The event side of a link unit (R197, R202, R204): flags, mask, and the results cursor as the unread count. -/
structure LinkEvents where
  flags : FlagSet
  mask : FlagSet
  unread : Nat
  deriving DecidableEq, Repr

/-- The frame side of a link unit. -/
structure Port where
  /-- the receive buffer (R185): emptied at the end of every frame, so empty between steps -/
  rx : List Byte
  /-- the pending response (R189) -/
  response : Response
  /-- the bytes the part clocked out during the link's last frame (R190); an output, whose lines `dataOutputs` gives -/
  clockedOut : List Byte
  /-- a select that was low as the part left reset has not risen yet (R196) -/
  straddling : Bool
  deriving DecidableEq, Repr

/-- The input pins as last sampled. -/
structure Pins where
  /-- SVCSTRAP# is tied -/
  strapTied : Bool
  /-- TRAYSW# shows a disc -/
  trayShown : Bool
  /-- RIBSW# shows a break -/
  breakShown : Bool
  /-- ATTN is asserted -/
  attn : Bool
  deriving DecidableEq, Repr

/-! ## The whole -/

/-- What the blocks of the part hold, but for image memory and the frame side of the links. -/
structure Part where
  /-- the part is held in tower reset (R195) -/
  held : Bool
  /-- the latched service strap is tied (R13) -/
  strap : Bool
  links : Vector LinkEvents 3
  /-- the results ring, oldest first (R203) -/
  ring : List ResultEntry
  /-- the image directory; `none` is EMPTY (R3) -/
  slots : Vector (Option Slot) 8
  /-- the job table; `none` is free (R21) -/
  jobs : Vector (Option Job) 12
  /-- the run list (R28) -/
  runList : List JobNum
  flow : Flow
  bays : Vector Bay 10
  bus : Bus
  engine : Engine
  verifier : Verifier
  printer : Printer
  thermal : Thermal
  deriving DecidableEq, Repr

/-- The state of the machine. -/
structure State where
  /-- the commands that wait, first in first out -/
  pending : List Instr
  /-- image memory (R1): addresses rising, no cell that holds 00h -/
  mem : List Host.Cell
  ports : Vector Port 3
  pins : Pins
  part : Part
  deriving DecidableEq, Repr

/-! ## Reset values -/

/-- R90. -/
def Bay.reset : Bay where
  present := false
  enabled := true
  disablePending := false
  capability := ⟨0, 0, 0⟩
  state := .offline
  disc := none
  temperature := none
  failures := 0
  errorCode := none
  housekeeping := none
  probe := none

/-- R72. The creation sequence starts at 0: DESIGN CHOICE, safe, log entry 5. -/
def Flow.reset : Flow where
  discs := []
  nextId := 1
  queue := []
  nextSeq := 0
  issued := none
  held := false
  spindles := Vector.replicate 2 none
  acceptFull := false
  rejectFull := false
  waitList := []
  moveReady := false
  ribbonShort := false

/-- R111. -/
def Bus.reset : Bus where
  list := []
  turn := .none
  addressing := .none
  sent := []
  ring := []
  position := none
  afterRound := false
  fruitless := []
  pause := none
  pollWanted := false
  holdOff := none

/-- R115, R135. -/
def Engine.reset : Engine where
  sessions := Vector.replicate 4 none
  waiting := []
  settings := ⟨30, 16, 8⟩

/-- R149, R152. -/
def Verifier.reset : Verifier where
  queue := []
  places := Vector.replicate 2 none
  limits := ⟨64, 256, 1024⟩

/-- R165, R175. -/
def Printer.reset : Printer where
  state := .pausedRibbon
  disc := none
  status := none
  label := none
  ribbon := 0
  strobe := 600
  pace := .full
  hot := none
  last := none
  firing := none
  gap := none
  settings := ⟨216, 708, 10, 256, 224, 192, 50, 2500⟩

/-- R176, R184. A sensor's periodic timer starts as the part leaves the reset; until then it does not run:
DESIGN CHOICE, unsafe, log entry 3. -/
def Sensor.reset : Sensor where
  reading := none
  condition := .normal
  timer := none

/-- R182, R184. -/
def Thermal.reset : Thermal where
  head := .reset
  ambient := .reset
  bays := Vector.replicate 10 .reset
  limits := ⟨⟨240, 280⟩, ⟨160, 200⟩, ⟨220, 260⟩⟩

/-- R195, R206. -/
def LinkEvents.reset : LinkEvents where
  flags := 0
  mask := BitVec.allOnes 14
  unread := 0

/-- R195. -/
def Port.reset : Port where
  rx := []
  response := .first
  clockedOut := []
  straddling := false

/-- The blocks of the part as tower reset leaves them (R20, R42, R72, R90, R111, R135, R152, R175, R184, R195, R206).
The latched strap is open until the part leaves the reset: DESIGN CHOICE, unsafe, log entry 3. -/
def Part.reset : Part where
  held := true
  strap := false
  links := Vector.replicate 3 .reset
  ring := []
  slots := Vector.replicate 8 none
  jobs := Vector.replicate 12 none
  runList := []
  flow := .reset
  bays := Vector.replicate 10 .reset
  bus := .reset
  engine := .reset
  verifier := .reset
  printer := .reset
  thermal := .reset

/-- The input pins with nothing tied, pressed or raised: DESIGN CHOICE, unsafe, log entry 6. -/
def Pins.reset : Pins where
  strapTied := false
  trayShown := false
  breakShown := false
  attn := false

/-- The machine right after power-on: held in tower reset, every table empty, image memory not kept (R20). -/
def State.reset : State where
  pending := []
  mem := []
  ports := Vector.replicate 3 .reset
  pins := .reset
  part := .reset

end Sys2Proof.Machine
end

