-- ==== Sys2Proof/Machine/Codes.lean ====
section
/-!
DEFINITION. Check codes and byte order (spec/00_scope.md, Check codes; 12): CRC-32, CRC-16 and numbers sent least
significant byte first.
-/

namespace Sys2Proof.Machine

/-- One step of the reflected CRC-32, polynomial EDB88320h. -/
def crc32Bit (c : Crc32) : Crc32 :=
  if c.getLsbD 0 then (c >>> 1) ^^^ 0xEDB88320#32 else c >>> 1

/-- Eight steps of the reflected CRC-32. -/
def crc32Eight (c : Crc32) : Crc32 :=
  crc32Bit (crc32Bit (crc32Bit (crc32Bit (crc32Bit (crc32Bit (crc32Bit (crc32Bit c)))))))

/-- Take one byte, least significant bit first, into a running CRC-32. -/
def crc32Byte (c : Crc32) (b : Byte) : Crc32 := crc32Eight (c ^^^ b.setWidth 32)

/-- The initial value of a running CRC-32. -/
def crc32Start : Crc32 := 0xFFFFFFFF#32

/-- Take bytes in order into a running CRC-32. -/
def crc32Feed (c : Crc32) (bytes : List Byte) : Crc32 := bytes.foldl crc32Byte c

/-- The final exclusive-or of a CRC-32. -/
def crc32Finish (c : Crc32) : Crc32 := c ^^^ 0xFFFFFFFF#32

/-- The CRC-32 of a string of bytes. -/
def crc32 (bytes : List Byte) : Crc32 := crc32Finish (crc32Feed crc32Start bytes)

/-- One step of the CRC-16, polynomial 1021h. -/
def crc16Bit (c : Crc16) : Crc16 :=
  if c.getLsbD 15 then (c <<< 1) ^^^ 0x1021#16 else c <<< 1

/-- Take one byte, most significant bit first, into a running CRC-16. -/
def crc16Byte (c : Crc16) (b : Byte) : Crc16 :=
  let x := c ^^^ (b.setWidth 16 <<< 8)
  crc16Bit (crc16Bit (crc16Bit (crc16Bit (crc16Bit (crc16Bit (crc16Bit (crc16Bit x)))))))

/-- The CRC-16 of a string of bytes: initial value FFFFh, no final exclusive-or. -/
def crc16 (bytes : List Byte) : Crc16 := bytes.foldl crc16Byte 0xFFFF#16

/-- `n` modulo 256, as a byte. -/
def byte (n : Nat) : Byte := BitVec.ofNat 8 n

/-- Two bytes, least significant first. -/
def le16 (n : Nat) : List Byte := [byte n, byte (n / 256)]

/-- Four bytes, least significant first. -/
def le32 (n : Nat) : List Byte := [byte n, byte (n / 256), byte (n / 65536), byte (n / 16777216)]

/-- The number that two bytes give, the first the least significant. -/
def num16 (b0 b1 : Byte) : Nat := b0.toNat + 256 * b1.toNat

/-- The number that four bytes give, the first the least significant. -/
def num32 (b0 b1 b2 b3 : Byte) : Nat :=
  b0.toNat + 256 * b1.toNat + 65536 * b2.toNat + 16777216 * b3.toNat

end Sys2Proof.Machine
end

