-- ==== Sys2Proof/Machine/Ops.lean ====
section
/-!
DEFINITION. The smallest shared operations: writing one entry of a table, finding the first entry of a table that
meets a test, clamping a number to a range, and the outcome type.
-/

namespace Sys2Proof.Machine

/-- What a command answers. -/
abbrev Result := Host.Outcome State Fault Refusal

/-- The table `v` with entry `i` replaced by `x`. -/
def put {α : Type} {n : Nat} (v : Vector α n) (i : Fin n) (x : α) : Vector α n := v.set i.val x i.isLt

/-- The lowest index of a table whose entry meets the test. -/
def lowest {α : Type} {n : Nat} (v : Vector α n) (test : α → Bool) : Option (Fin n) :=
  (List.finRange n).find? fun i => test v[i]

/-- `x` clamped to `lo` to `hi` (spec/00_scope.md, Conventions). -/
def clampNat (lo hi x : Nat) : Nat := if x < lo then lo else if hi < x then hi else x

/-- `x` clamped to `lo` to `hi`. -/
def clampInt (lo hi x : Int) : Int := if x < lo then lo else if hi < x then hi else x

/-- A temperature outside -160 to 511 is taken as the nearer end (R176). -/
def clampTemp (t : Int) : Int := clampInt (-160) 511 t

/-- Change bay record `b`. -/
def modBay (b : BayNum) (f : Bay → Bay) (p : Part) : Part := { p with bays := put p.bays b (f p.bays[b]) }

/-- The speed a capability gives for a media, 0 if not capable (R73). -/
def Capability.speed (c : Capability) : Media → Nat
  | .cd => c.cd
  | .dvd => c.dvd
  | .bd => c.bd

/-- A bay is capable of a media when it gives a maximum speed for it (R73). -/
def Capability.capable (c : Capability) (m : Media) : Bool := c.speed m != 0

end Sys2Proof.Machine
end

