-- ==== Sys2Proof/Machine/Flags.lean ====
section
/-!
DEFINITION. Event flags, masks, the attention line and the results ring (chapter 11).
-/

namespace Sys2Proof.Machine

/-- The fourteen event flags, in the order of 12.1. -/
inductive Flag where
  | reset | job | delivered | rejected | move | flowHeld | blanks | bin | bay | printer | thermal | image | protect
  | resultsOverrun
  deriving DecidableEq, Repr

/-- The bit of a flag in a flag set (12.1). -/
def Flag.index : Flag → Nat
  | .reset => 0
  | .job => 1
  | .delivered => 2
  | .rejected => 3
  | .move => 4
  | .flowHeld => 5
  | .blanks => 6
  | .bin => 7
  | .bay => 8
  | .printer => 9
  | .thermal => 10
  | .image => 11
  | .protect => 12
  | .resultsOverrun => 13

/-- The flag set that holds one flag. -/
def Flag.bit (f : Flag) : FlagSet := BitVec.twoPow 14 f.index

/-- A link's events with one more flag set; a flag already set stays set (R197). -/
def LinkEvents.set (f : Flag) (e : LinkEvents) : LinkEvents := { e with flags := e.flags ||| f.bit }

/-- A block raises an event: the flag becomes set in all three link units (R197). -/
def raise (f : Flag) (p : Part) : Part := { p with links := p.links.map (LinkEvents.set f) }

/-- Raise an event if the test holds. -/
def raiseIf (b : Bool) (f : Flag) (p : Part) : Part := if b then raise f p else p

/-- Link `l`'s attention line: asserted exactly while the link holds an unmasked flag, and released while the part is
held in tower reset (R199). -/
def attention (p : Part) (l : Link) : Bool := !p.held && (p.links[l].flags &&& p.links[l].mask) != 0

/-- What an append does to a link (R205): `full` says that the ring dropped its oldest entry. -/
def LinkEvents.afterAppend (full : Bool) (e : LinkEvents) : LinkEvents :=
  if full && decide (Config.ringSize ≤ e.unread) then { e.set .resultsOverrun with unread := Config.ringSize }
  else { e with unread := e.unread + 1 }

/-- Append an entry to the results ring, dropping the oldest of 64 (R203 to R205). -/
def appendResult (x : ResultEntry) (p : Part) : Part :=
  let full := decide (Config.ringSize ≤ p.ring.length)
  { p with
    ring := (if full then p.ring.drop (p.ring.length + 1 - Config.ringSize) else p.ring) ++ [x]
    links := p.links.map (LinkEvents.afterAppend full) }

end Sys2Proof.Machine
end

