-- ==== Sys2Proof/Machine/ImageOps.lean ====
section
/-!
DEFINITION. Image memory as a list of cells in canonical form, the derived fields of a slot, first fit, and the reads
that the image store serves (chapter 1).
-/

namespace Sys2Proof.Machine

/-! ## Image memory -/

/-- What a byte of image memory that no cell lists reads as: 00h. DESIGN CHOICE, unsafe, log entry 4. -/
def unlisted : Byte := 0#8

/-- The canonical form of image memory: addresses strictly rising, and no cell that holds what an unlisted address
reads as. -/
abbrev Memory.wf (m : List Host.Cell) : Prop :=
  m.Pairwise (fun c d => c.1 < d.1) ∧ ∀ c ∈ m, c.2 ≠ unlisted

/-- The byte at an address. -/
def readByte (m : List Host.Cell) (a : Nat) : Byte :=
  match m.find? (fun c => c.1 == a) with
  | some c => c.2
  | none => unlisted

/-- The cells that a run of bytes from address `a` needs. -/
def cellsOf (a : Nat) (bytes : List Byte) : List Host.Cell :=
  (bytes.zipIdx a).filterMap fun x => if x.1 = unlisted then none else some (x.2, x.1)

/-- Store bytes at ascending addresses from `a` (R7). -/
def writeBytes (m : List Host.Cell) (a : Nat) (bytes : List Byte) : List Host.Cell :=
  m.filter (fun c => c.1 < a) ++ cellsOf a bytes ++ m.filter (fun c => a + bytes.length ≤ c.1)

/-- `n` bytes from address `a`, from cells in rising order whose addresses are at least `a`; `acc` is what has been
read so far, the latest first. -/
def spread : Nat → Nat → List Host.Cell → List Byte → List Byte
  | 0, _, _, acc => acc.reverse
  | n + 1, a, [], acc => spread n (a + 1) [] (unlisted :: acc)
  | n + 1, a, c :: cs, acc =>
    if c.1 = a then spread n (a + 1) cs (c.2 :: acc) else spread n (a + 1) (c :: cs) (unlisted :: acc)

/-- The `n` bytes from address `a`. -/
def readBytes (m : List Host.Cell) (a n : Nat) : List Byte :=
  spread n a (m.filter fun c => a ≤ c.1 && c.1 < a + n) []

/-! ## Slots -/

/-- `a` divided by `b`, rounded up. -/
def divUp (a b : Nat) : Nat := (a + b - 1) / b

/-- The block count of an image (R3). -/
def blockCountOf : ImageKind → Nat → Nat
  | .disc, length => divUp length 32
  | .label, length => divUp (length * 180) Config.blockBytes

/-- The chunk count of an image (R3). -/
def chunkCountOf : ImageKind → Nat → Nat
  | .disc, length => divUp (blockCountOf .disc length) 32
  | .label, _ => 1

/-- The bytes of an image (R3). -/
def imageBytesOf : ImageKind → Nat → Nat
  | .disc, length => 2048 * length
  | .label, length => 180 * length

/-- The range of a declared length (R3). -/
def lengthOk : ImageKind → Nat → Bool
  | .disc, length => 1 ≤ length && length ≤ 16777216
  | .label, length => 1 ≤ length && length ≤ 1440

/-- The slot's block count (R3). -/
def Slot.blockCount (s : Slot) : Nat := blockCountOf s.kind s.length

/-- The slot's chunk count (R3). -/
def Slot.chunkCount (s : Slot) : Nat := chunkCountOf s.kind s.length

/-- The bytes of block `b` that lie within the image: a whole block but for the last (R3). -/
def Slot.bytesIn (s : Slot) (b : Nat) : Nat :=
  if b + 1 = s.blockCount then imageBytesOf s.kind s.length - Config.blockBytes * b else Config.blockBytes

/-- The address of block `b` of the slot's image (R1): image chunk b / 32 is memory chunk first + b / 32, and the
block stands at position b mod 32 in it. -/
def Slot.blockAddress (s : Slot) (b : Nat) : Nat :=
  (s.first + b / 32) * Config.chunkBytes + (b % 32) * Config.blockBytes

/-- The slot's extent lies within image memory. -/
def Slot.inMemory (s : Slot) : Bool := s.first + s.chunkCount ≤ Config.chunks

/-- Chunk `c` belongs to the slot's extent (R1). -/
def Slot.holds (s : Slot) (c : Nat) : Bool := s.first ≤ c && c < s.first + s.chunkCount

/-- A chunk is free when no slot's extent holds it (R1). -/
def chunkFree (slots : Vector (Option Slot) 8) (c : Nat) : Bool :=
  slots.toList.all fun s => match s with
    | some s => !s.holds c
    | none => true

/-- The run of `n` chunks from `c` meets no extent. -/
def runFree (slots : Vector (Option Slot) 8) (c n : Nat) : Bool :=
  slots.toList.all fun s => match s with
    | some s => s.first + s.chunkCount ≤ c || c + n ≤ s.first
    | none => true

/-- The lowest chunk, from `c` on, at which a free run of `n` chunks starts; `fuel` chunks are looked at. -/
def firstFitFrom (slots : Vector (Option Slot) 8) (n : Nat) : Nat → Nat → Option Nat
  | 0, _ => none
  | fuel + 1, c =>
    if Config.chunks < c + n then none
    else if runFree slots c n then some c
    else firstFitFrom slots n fuel (c + 1)

/-- First fit (R2). -/
def firstFit (slots : Vector (Option Slot) 8) (n : Nat) : Option Nat :=
  firstFitFrom slots n (Config.chunks + 1) 0

/-- Replace a slot's record. -/
def setSlot (n : SlotNum) (s : Option Slot) (p : Part) : Part := { p with slots := put p.slots n s }

/-- The slot is of the given kind and FROZEN (R27). -/
def frozenOf (p : Part) (k : ImageKind) (n : SlotNum) : Bool :=
  match p.slots[n] with
  | some s => s.kind = k && s.state = .frozen
  | none => false

/-- A queued job takes its reference on a slot (R12). -/
def takeRef (n : SlotNum) (p : Part) : Part :=
  match p.slots[n] with
  | some s => setSlot n (some { s with refs := s.refs + 1 }) p
  | none => p

/-- A job gives back its reference on a slot (R12): a RETIRING slot whose count reaches 0 becomes EMPTY (R16). -/
def dropRef (n : SlotNum) (p : Part) : Part :=
  match p.slots[n] with
  | some s =>
    if s.refs ≤ 1 && s.state = .retiring then raise .image (setSlot n none p)
    else setSlot n (some { s with refs := s.refs - 1 }) p
  | none => p

/-! ## What the store serves to other blocks -/

/-- Block `b` of a slot's image: its image bytes and then zeros up to 65,536 (R18). -/
def imageBlock (m : List Host.Cell) (s : Slot) (b : Nat) : List Byte :=
  let n := s.bytesIn b
  readBytes m (s.blockAddress b) n ++ List.replicate (Config.blockBytes - n) 0

/-- Raster line `y` of a LABEL slot: 180 bytes from offset 180 × y, or a blank line at or past the declared length
(R19). -/
def rasterLine (m : List Host.Cell) (s : Slot) (y : Nat) : List Byte :=
  if y < s.length then readBytes m (s.first * Config.chunkBytes + 180 * y) 180 else List.replicate 180 0

end Sys2Proof.Machine
end

