-- ==== Sys2Proof/Machine/BusOps.lean ====
section
/-!
DEFINITION. The bay bus controller's own operations (chapter 5): the service work list and its merging, addressing,
the grant ring and its position, eligibility, and carrying out the items of a round.
-/

namespace Sys2Proof.Machine

/-! ## The service work list -/

/-- The items of the round under way that have not reached the bus. -/
def Turn.rest : Turn → List Item
  | .round _ rest => rest
  | _ => []

/-- The item a round has on the bus. -/
def Turn.item : Turn → Option Item
  | .round (some c) _ => some c.item
  | _ => .none

/-- The items that wait for the bus: those of the list, and those a round has taken and not yet carried out. -/
def waitingItems (p : Part) : List Item := p.bus.list ++ p.bus.turn.rest

/-- The item is a STATUS READ of bay `b`. -/
def Item.reads (b : BayNum) : Item → Bool
  | .statusRead n _ => n = b
  | _ => false

/-- The item is a status read that a SERVICE POLL produced (R101). -/
def Item.polledRead : Item → Bool
  | .statusRead _ polled => polled
  | _ => false

/-- The item belongs to broadcast session `n`. -/
def Item.ofSession (n : SessionNum) : Item → Bool
  | .prepare m => m = n
  | .go m => m = n
  | .close m => m = n
  | .readyPoll m => m = n
  | _ => false

/-- The item belongs to the readback session at place `k`. -/
def Item.ofPlace (k : PlaceNum) : Item → Bool
  | .readback m => m = k
  | _ => false

/-- A STATUS READ of bay `b` is waiting. -/
def readWaiting (p : Part) (b : BayNum) : Bool := (waitingItems p).any (Item.reads b)

/-- The item merges with one that is waiting already (R104). -/
def mergesWith (p : Part) : Item → Bool
  | .statusRead b _ => readWaiting p b
  | .clear b => (waitingItems p).contains (.clear b)
  | .readyPoll n => (waitingItems p).contains (.readyPoll n)
  | _ => false

/-- Ask for a service item (R104). -/
def ask (it : Item) (p : Part) : Part :=
  if mergesWith p it then p else { p with bus := { p.bus with list := p.bus.list ++ [it] } }

/-! ## The grant ring -/

/-- A session enters the ring, at its end; the ring holds no session twice; R110's count starts afresh (R106, R110). -/
def enterRing (e : RingEntry) (p : Part) : Part :=
  { p with bus := { p.bus with
      ring := if p.bus.ring.contains e then p.bus.ring else p.bus.ring ++ [e], fruitless := [] } }

/-- The entry before `e` in a ring, the last entry before the first. -/
def entryBefore (ring : List RingEntry) (e : RingEntry) : Option RingEntry :=
  match (ring.takeWhile (· ≠ e)).getLast? with
  | some x => some x
  | none => (ring.filter (· ≠ e)).getLast?

/-- A session leaves the ring; a grant position on it moves to the entry before it (R106). -/
def leaveRing (e : RingEntry) (p : Part) : Part :=
  { p with bus := { p.bus with
      ring := p.bus.ring.filter (· ≠ e)
      position := if p.bus.position = some e then entryBefore p.bus.ring e else p.bus.position } }

/-- A ring entry may be granted (R107). -/
def entryEligible (p : Part) : RingEntry → Bool
  | .broadcast n =>
    match p.engine.sessions[n] with
    | some s =>
      match s.state with
      | .priming => s.cursor < s.primeCount.getD 0
      | .streaming => s.cursor < s.blockCount
      | _ => false
    | none => false
  | .readback k =>
    match p.verifier.places[k] with
    | some r => r.taken < r.blockCount && r.held.length < 2
    | none => false

/-- The ring as the arbiter looks along it: from the entry after the grant position, wrapping round (R108). -/
def ringFrom (b : Bus) : List RingEntry :=
  match b.position with
  | none => b.ring
  | some e => ((b.ring.dropWhile (· ≠ e)).drop 1) ++ b.ring.takeWhile (· ≠ e) ++ b.ring.filter (· = e)

/-- The entry the arbiter would grant (R108). -/
def nextGrant (p : Part) : Option RingEntry := (ringFrom p.bus).find? (entryEligible p)

/-- The ring has an eligible entry (R105). -/
def anyEligible (p : Part) : Bool := p.bus.ring.any (entryEligible p)

/-! ## The end of a session's part on the bus -/

/-- The turn under way, once broadcast session `n` has ended: its items not yet on the bus go unsent (R104, R114) and
what is on the bus is told to no one (R108). -/
def Turn.forgetSession (n : SessionNum) : Turn → Turn
  | .none => .none
  | .round c rest =>
    .round (c.map fun c => if c.item.ofSession n then { c with live := false } else c)
      (rest.filter fun i => !i.ofSession n)
  | .block m live i d => .block m (live && m ≠ n) i d
  | .talk k live => .talk k live

/-- The same for the readback session at place `k` (R109, R139). -/
def Turn.forgetPlace (k : PlaceNum) : Turn → Turn
  | .none => .none
  | .round c rest =>
    .round (c.map fun c => if c.item.ofPlace k then { c with live := false } else c)
      (rest.filter fun i => !i.ofPlace k)
  | .block m live i d => .block m live i d
  | .talk j live => .talk j (live && j ≠ k)

/-- Broadcast session `n` has ended: off the ring, its service items removed unsent (R131). -/
def busForgetSession (n : SessionNum) (p : Part) : Part :=
  let p := leaveRing (.broadcast n) p
  { p with bus := { p.bus with
      list := p.bus.list.filter fun i => !i.ofSession n
      turn := p.bus.turn.forgetSession n } }

/-- The readback session at place `k` has ended (R143, R150). -/
def busForgetPlace (k : PlaceNum) (p : Part) : Part :=
  let p := leaveRing (.readback k) p
  { p with bus := { p.bus with
      list := p.bus.list.filter fun i => !i.ofPlace k
      turn := p.bus.turn.forgetPlace k } }

/-! ## Addressing and the items of a round -/

/-- The member bays of a session in ascending order, as they are addressed (R92). -/
def listenersOf (s : Session) : List BayNum :=
  (List.finRange 10).filter fun b => s.members.any fun m => m.bay = b

/-- The addressing commands that bring `need` about from `now` (R92). -/
def addressCommands (now need : Addressing) : List BusCommand :=
  if now = need then []
  else match need with
    | .none => [.unaddress]
    | .listeners bs => .unaddress :: bs.map .listen
    | .talker b => [.unaddress, .talk b]

/-- Address for a transfer: send what is needed and record it in force (R92). -/
def address (need : Addressing) (p : Part) : Part :=
  { p with bus := { p.bus with addressing := need, sent := addressCommands p.bus.addressing need } }

/-- What a service item needs as addressing (`none`: no addressing command is sent for it) and offers on the bus, if it
is carried out at all: an item of a session that has ended or has no members is not (R93, R94, R104). R100 sends a
SERVICE POLL with no addressing: no UNADDRESS goes before it and the addressing in force stays as it was (DEDUCED,
unsafe, log entry 26). -/
def carryOut (p : Part) : Item → Option (Option Addressing × Offer)
  | .clearAll => some (none, .command .clearAll)
  | .statusRead b _ => some (none, .command (.statusRead b))
  | .servicePoll => some (none, .command .servicePoll)
  | .clear b => some (none, .command (.clear b))
  | .prepare n =>
    match p.engine.sessions[n] with
    | some s =>
      if s.members.isEmpty then none
      else match p.slots[s.slot] with
        | some sl => some (some (.listeners (listenersOf s)), .prepare sl.length s.media (s.speed.getD 1))
        | none => none
    | none => none
  | .go n =>
    match p.engine.sessions[n] with
    | some s => if s.members.isEmpty then none else some (some (.listeners (listenersOf s)), .command .go)
    | none => none
  | .close n =>
    match p.engine.sessions[n] with
    | some s => if s.members.isEmpty then none else some (some (.listeners (listenersOf s)), .close)
    | none => none
  | .readyPoll n =>
    match p.engine.sessions[n] with
    | some s => if s.members.isEmpty then none else some (some (.listeners (listenersOf s)), .command .readyPoll)
    | none => none
  | .readback k =>
    match p.verifier.places[k] with
    | some r => some (some (.listeners [r.bay]), .readback r.blockCount)
    | none => none

/-- Go on with a round: put the first item that is carried out on the bus, or end the round (R105). At the end the
arbiter owes a grant if an entry is eligible, and R110's count starts afresh. -/
def nextItem : List Item → Part → Part
  | [], p => { p with bus := { p.bus with turn := .none, afterRound := anyEligible p, fruitless := [] } }
  | it :: rest, p =>
    match carryOut p it with
    | none => nextItem rest p
    | some (need, offer) =>
      let p := match need with
        | some a => address a p
        | none => { p with bus := { p.bus with sent := [] } }
      { p with bus := { p.bus with
          turn := .round (some ⟨it, true, offer⟩) rest
          pollWanted := p.bus.pollWanted && it ≠ .servicePoll } }

/-- The item on the bus has ended: nothing is under way until the round goes on. -/
def itemOff (p : Part) : Part := { p with bus := { p.bus with turn := .round none p.bus.turn.rest } }

/-- Go on with the round under way. -/
def goOn (p : Part) : Part := nextItem p.bus.turn.rest p

/-- Judge the poll wanted condition with ATTN as the part reads it (R100): a poll that waits or is under way holds off
another, and so does a read that a poll produced while it waits; a read under way does not. -/
def judgePoll (attn : Bool) (p : Part) : Part :=
  let busy := p.bus.pollWanted || (waitingItems p).contains .servicePoll || p.bus.turn.item = some .servicePoll
    || (waitingItems p).any Item.polledRead
  if attn && !busy && p.bus.holdOff.isNone then
    { p with bus := { p.bus with list := p.bus.list ++ [.servicePoll], pollWanted := true } }
  else p

/-- A grant that moved no block has ended (R110). -/
def endFruitless (e : RingEntry) (p : Part) : Part :=
  let seen := if p.bus.fruitless.contains e then p.bus.fruitless else p.bus.fruitless ++ [e]
  if anyEligible p && (p.bus.ring.filter (entryEligible p)).all fun x => seen.contains x then
    { p with bus := { p.bus with turn := .none, pause := some Config.grantPauseMs, fruitless := [] } }
  else { p with bus := { p.bus with turn := .none, fruitless := seen } }

/-- A grant that moved a block has ended (R110). -/
def endMoved (p : Part) : Part := { p with bus := { p.bus with turn := .none, fruitless := [] } }

/-! ## The lines as the part drives them (R91) -/

/-- The part drives CMD at all times and asserts it while the word on the lanes is a bus command (R91, R93). -/
def cmdAsserted (p : Part) : Bool :=
  match p.bus.turn with
  | .round (some ⟨_, _, .command _⟩) _ => !p.held
  | _ => false

/-- The part asserts VALID while it offers a bus command, a message or a block as talker, and releases it otherwise
(R91, R93, R96, R97). -/
def validAsserted (p : Part) : Bool :=
  match p.bus.turn with
  | .round (some ⟨_, _, .record⟩) _ => false
  | .round (some _) _ => !p.held
  | .block _ _ _ _ => !p.held
  | _ => false

/-- The part is the one listener: it takes a status record or a readback block from a talking bay (R92, R98, R102). -/
def listening (p : Part) : Bool :=
  match p.bus.turn with
  | .round (some ⟨_, _, .record⟩) _ => !p.held
  | .talk _ _ => !p.held
  | _ => false

/-- READY as the part drives it: held high while it listens, released (`none`) otherwise (R91, R98). -/
def readyDriven (p : Part) : Option Bool := if listening p then some true else none

/-- TAKEN as the part drives it: held low while it listens and has not the whole message; with the whole message, or at
the limit, the turn or item ends and the part releases it (`none`) (R91, R98, R102). -/
def takenDriven (p : Part) : Option Bool := if listening p then some false else none

end Sys2Proof.Machine
end

