-- ==== Sys2Proof/Machine/ThermalOps.lean ====
section
/-!
DEFINITION. Samples and condition states (9.2 to 9.4). What other blocks do on a change is in their own files: the
printer acts on HEAD in PrinterOps, and the disc flow controller judges its conditions afresh in SettleOps.
-/

namespace Sys2Proof.Machine

/-- The condition after a sample, from the condition before it, the reading and the limits (R180). -/
def judge (lim : LimitPair) (before : Condition) (r : Int) : Condition :=
  match before with
  | .normal => if lim.critical ≤ r then .critical else if lim.high ≤ r then .high else .normal
  | .high => if lim.critical ≤ r then .critical else if lim.high - 8 ≤ r then .high else .normal
  | .critical => if lim.critical - 8 ≤ r then .critical else .high

/-- The order of the conditions: a rise is a change to a greater rank. -/
def Condition.rank : Condition → Nat
  | .normal => 0
  | .high => 1
  | .critical => 2

/-- The change is a rise (R181). -/
def rises (before after : Condition) : Bool := before.rank < after.rank

/-- A sensor record after a sample that reads `v` (R176, R180). -/
def Sensor.sample (lim : LimitPair) (v : Int) (s : Sensor) : Sensor :=
  { s with reading := some (clampTemp v), condition := judge lim s.condition (clampTemp v) }

/-- A HEAD sample of either kind: judged, THERMAL on a rise, the periodic timer restarted (R177, R181). -/
def sampleHead (v : Int) (p : Part) : Part :=
  let after := { p.thermal.head.sample p.thermal.limits.head v with timer := some Config.sampleMs }
  raiseIf (rises p.thermal.head.condition after.condition) .thermal
    { p with thermal := { p.thermal with head := after } }

/-- An AMBIENT sample (R178, R181). -/
def sampleAmbient (v : Int) (p : Part) : Part :=
  let after := { p.thermal.ambient.sample p.thermal.limits.ambient v with timer := some Config.sampleMs }
  raiseIf (rises p.thermal.ambient.condition after.condition) .thermal
    { p with thermal := { p.thermal with ambient := after } }

/-- A BAY sample, from the temperature of a status record (R179, R181). -/
def sampleBay (b : BayNum) (v : Int) (p : Part) : Part :=
  let after := p.thermal.bays[b].sample p.thermal.limits.bay v
  raiseIf (rises p.thermal.bays[b].condition after.condition) .thermal
    { p with thermal := { p.thermal with bays := put p.thermal.bays b after } }

/-- AMBIENT is CRITICAL (R51, R53, R60). -/
def ambientCritical (p : Part) : Bool := p.thermal.ambient.condition = .critical

/-- A condition that halves a speed (R120). -/
def Condition.hot (c : Condition) : Bool := c != .normal

end Sys2Proof.Machine
end

