-- ==== Sys2Proof/Machine/BayOps.lean ====
section
/-!
DEFINITION. The bay manager's shared operations (chapter 4).
-/

namespace Sys2Proof.Machine

/-- The bay state that follows a disc's state while the disc is in a bay (R46, R75). -/
def bayStateOf : DiscState → BayState
  | .bound => .reserved
  | .loaded => .loaded
  | .burning => .burning
  | .burned => .burned
  | .verifyWait => .burned
  | .verifying => .verifying
  | .passed => .holding
  | .printWait => .holding
  | .printing => .holding
  | .printed => .holding
  | .failed => .holding

/-- The state a bay enters on a disc event: `st` if it is present, since a bay is OFFLINE exactly while it is not, and a
disc event changes a present bay's state only (R74, R75). -/
def Bay.enter (st : BayState) (x : Bay) : BayState := if x.present then st else x.state

/-- A bay that its disc or reservation leaves (R76): a pending disable takes effect. -/
def freeBay (b : BayNum) (p : Part) : Part :=
  let bay := p.bays[b]
  if bay.disablePending then
    raise .bay (modBay b (fun x =>
      { x with state := x.enter .empty, disc := none, enabled := false, disablePending := false }) p)
  else modBay b (fun x => { x with state := x.enter .empty, disc := none }) p

/-- A burn failure is applied to the disc in the bay: the count rises, and at 3 the bay is disabled (R83, R84). -/
def countFailure (b : BayNum) (p : Part) : Part :=
  if 3 ≤ p.bays[b].failures + 1 then
    raise .bay (modBay b (fun x => { x with failures := 3, enabled := false, disablePending := false }) p)
  else modBay b (fun x => { x with failures := x.failures + 1 }) p

/-- The housekeeping timer of a bay starts or restarts (R79). -/
def startHousekeeping (b : BayNum) (p : Part) : Part :=
  modBay b (fun x => { x with housekeeping := some Config.housekeepingMs }) p

/-- As a read of a present bay ends its housekeeping timer restarts, unless a read of the bay is waiting: a bay that was
present as that read was asked for has it for housekeeping, and the timer does not run while it waits (R79). -/
def restartHousekeeping (b : BayNum) (p : Part) : Part :=
  if readWaiting p b then modBay b (fun x => { x with housekeeping := none }) p else startHousekeeping b p

/-- The probe timer of a bay starts or restarts (R80). -/
def startProbe (b : BayNum) (p : Part) : Part := modBay b (fun x => { x with probe := some Config.probeMs }) p

/-- A maximum speed above 48 is taken as 48 (R78). -/
def settleSpeed (b : Byte) : Nat := min b.toNat 48

/-- The capability a status record gives (R78). -/
def capabilityOf (r : StatusRecord) : Capability :=
  ⟨settleSpeed r.speedCd, settleSpeed r.speedDvd, settleSpeed r.speedBd⟩

/-- What the bay manager takes into the bay record and hands to the thermal monitor (R78, items 1 to 4); a bay that was
OFFLINE becomes present and EMPTY first (R77, R80), and its housekeeping timer starts, whatever read of it waits
(R79). -/
def takeRecord (b : BayNum) (r : StatusRecord) (p : Part) : Part :=
  let known := p.bays[b].present
  let p := if p.bays[b].present then p
    else raise .bay (modBay b (fun x => { x with present := true, state := .empty, probe := none }) p)
  let p := modBay b (fun x =>
    { x with
      temperature := some (clampTemp r.temperature)
      capability := capabilityOf r
      errorCode := match r.errorCode with
        | some e => some e.toNat
        | none => x.errorCode }) p
  let p := sampleBay b r.temperature p
  if known then restartHousekeeping b p else startHousekeeping b p

/-- A status read of bay `b` went unanswered (R80, R81). -/
def judgeSilence (b : BayNum) (p : Part) : Part :=
  let bay := p.bays[b]
  if !bay.present then startProbe b p
  else if bay.state = .empty then
    startProbe b (raise .bay
      (modBay b (fun x => { x with present := false, state := .offline, housekeeping := none }) p))
  else restartHousekeeping b p

end Sys2Proof.Machine
end

