-- ==== Sys2Proof/Machine/FlowOps.lean ====
section
/-!
DEFINITION. The disc flow controller's shared operations (chapter 3): the disc table, move orders and their
eligibility, failing and routing a disc, withdrawing an unissued pick.
-/

namespace Sys2Proof.Machine

/-! ## The disc table -/

/-- The record with a disc id. -/
def findDisc (p : Part) (id : Nat) : Option Disc := p.flow.discs.find? fun d => d.id = id

/-- Change the record with a disc id. -/
def modDisc (id : Nat) (f : Disc → Disc) (p : Part) : Part :=
  { p with flow := { p.flow with discs := p.flow.discs.map fun d => if d.id = id then f d else d } }

/-- Remove the record with a disc id. -/
def removeDisc (id : Nat) (p : Part) : Part :=
  { p with flow := { p.flow with discs := p.flow.discs.filter fun d => d.id ≠ id } }

/-- Insert a record in order of disc id (R45). -/
def insertDisc (d : Disc) (p : Part) : Part :=
  { p with flow := { p.flow with
      discs := (p.flow.discs.filter fun x => x.id < d.id) ++ d :: p.flow.discs.filter fun x => d.id ≤ x.id } }

/-- The identifier after `n`: from 65,535 to 1 (R45). -/
def succId (n : Nat) : Nat := if n < 65535 then n + 1 else 1

/-- The first identifier from `n` on that no record of the table has; `fuel` identifiers are tried (R45). -/
def freshId (discs : List Disc) : Nat → Nat → Nat
  | 0, n => n
  | fuel + 1, n => if discs.any fun d => d.id = n then freshId discs fuel (succId n) else n

/-- The identifier that a new record takes (R45). -/
def newId (p : Part) : Nat := freshId p.flow.discs (p.flow.discs.length + 1) p.flow.nextId

/-- Create a record under a new disc id; the next identifier advances past it (R45). -/
def createDisc (make : Nat → Disc) (p : Part) : Part :=
  let id := newId p
  insertDisc (make id) { p with flow := { p.flow with nextId := succId id } }

/-- Discs whose record names job `j`, in any state (R21). -/
def inFlight (p : Part) (j : JobNum) : Nat := (p.flow.discs.filter fun d => d.job = some j).length

/-- Discs of job `j` in BOUND (R30). -/
def boundCount (p : Part) (j : JobNum) : Nat :=
  (p.flow.discs.filter fun d => d.job = some j && d.state = .bound).length

/-- The tray is held by the record whose position it is (R43). -/
def trayHeld (p : Part) : Bool := p.flow.discs.any fun d => d.position = .tray

/-- The tray is reserved by the record whose order leads to it (R43). -/
def trayReserved (p : Part) : Bool := p.flow.discs.any fun d => d.destination = some .tray

/-- Free the place a disc leaves, as far as the bay manager keeps it (R62, R75, R76); the tray is free once no record
is in it. -/
def leavePlace (pos : Position) (p : Part) : Part :=
  match pos with
  | .bay b => freeBay b p
  | _ => p

/-- A disc in a bay changes state, and the bay's state follows it (R46, R75). -/
def followBay (pos : Position) (st : DiscState) (p : Part) : Part :=
  match pos with
  | .bay b => modBay b (fun x => { x with state := x.enter (bayStateOf st) }) p
  | _ => p

/-- Put a disc into a state, with other changes of its record, its bay following (R46). -/
def enterState (d : Disc) (st : DiscState) (f : Disc → Disc) (p : Part) : Part :=
  followBay d.position st (modDisc d.id (fun x => { f x with state := st }) p)

/-! ## Move orders -/

/-- The class of a kind of move (R59). -/
def MoveKind.cls : MoveKind → Nat
  | .printerToAccept => 0
  | .printerToReject => 0
  | .bayToAccept => 1
  | .bayToReject => 1
  | .bayToPrinter => 2
  | .pick => 3

/-- An unissued order is eligible for issue (R60). -/
def eligible (p : Part) (o : Order) : Bool :=
  !p.flow.held && !(o.target = .acceptBin && p.flow.acceptFull) && !(o.target = .rejectBin && p.flow.rejectFull)
    && !(o.kind = .pick && ambientCritical p)

/-- No order is issued and at least one is eligible (R61). -/
def moveWaits (p : Part) : Bool := p.flow.issued.isNone && p.flow.queue.any (eligible p)

/-- Judge R61's condition: MOVE is set as it begins to hold. -/
def judgeMove (p : Part) : Part :=
  let now := moveWaits p
  raiseIf (now && !p.flow.moveReady) .move { p with flow := { p.flow with moveReady := now } }

/-- The first order a MOVE NEXT would issue (R61). -/
def firstEligible (p : Part) : Option Order := p.flow.queue.find? (eligible p)

/-- Put an order into a queue by its class, behind its equals (R59). -/
def enqueue (o : Order) (q : List Order) : List Order :=
  (q.filter fun x => x.kind.cls ≤ o.kind.cls) ++ o :: q.filter fun x => o.kind.cls < x.kind.cls

/-- Create an order (R59): the disc's destination becomes its to-position (R56), and R61 is judged. -/
def addOrder (kind : MoveKind) (id : Nat) (source target : Position) (p : Part) : Part :=
  let o : Order := ⟨kind, id, source, target, p.flow.nextSeq⟩
  judgeMove (modDisc id (fun d => { d with destination := some target })
    { p with flow := { p.flow with queue := enqueue o p.flow.queue, nextSeq := p.flow.nextSeq + 1 } })

/-- Take an order off the queue, and out of the issued-move slot if it stands there. -/
def dropOrder (o : Order) (p : Part) : Part :=
  { p with flow := { p.flow with
      queue := p.flow.queue.filter (· ≠ o)
      issued := if p.flow.issued = some o then none else p.flow.issued } }

/-- The order of a disc, if it has one. -/
def orderOf (p : Part) (id : Nat) : Option Order := p.flow.queue.find? fun o => o.disc = id

/-- The order is issued. -/
def isIssued (p : Part) (o : Order) : Bool := p.flow.issued = some o

/-! ## Failing and routing -/

/-- Give a FAILED disc its order to the reject bin, by where it is (R56). -/
def routeFailed (d : Disc) (p : Part) : Part :=
  match d.position with
  | .bay b => addOrder .bayToReject d.id (.bay b) .rejectBin p
  | .tray => addOrder .printerToReject d.id .tray .rejectBin p
  | _ => p

/-- A disc becomes FAILED with a reason; its session field becomes absent (R47, R113). -/
def markFailed (d : Disc) (why : RejectReason) (p : Part) : Part :=
  enterState d .failed (fun x => { x with reason := some why, session := none }) p

/-- A disc becomes FAILED and is routed to the reject bin (R56). -/
def failDisc (d : Disc) (why : RejectReason) (p : Part) : Part := routeFailed d (markFailed d why p)

/-- A disc that the census, or a status record, finds in EMPTY bay `b`: an orphan (R70, R82). -/
def orphanInBay (b : BayNum) (p : Part) : Part :=
  let id := newId p
  let p := createDisc (fun id =>
    ⟨id, none, .failed, .bay b, none, none, some b, none, none, none, false, some .orphan⟩) p
  addOrder .bayToReject id (.bay b) .rejectBin
    (modBay b (fun x => { x with state := x.enter .holding, disc := some id }) p)

/-- The results ring entry for a disc (R64, R66, R203). -/
def entryFor (d : Disc) (outcome : DiscOutcome) (reason : Option RejectReason) : ResultEntry :=
  ⟨d.id, d.job, outcome, reason, d.grade, d.stalls, d.loadBay, d.printed⟩

/-! ## Picks -/

/-- The pick order, if one exists (R51 allows one). -/
def pickOrder (p : Part) : Option Order := p.flow.queue.find? fun o => o.kind = .pick

/-- The job whose disc an order moves. -/
def jobOfOrder (p : Part) (o : Order) : Option JobNum := (findDisc p o.disc).bind (·.job)

/-- Remove an unissued pick with its BOUND record and free the reserved bay (R55); the scheduler is told by the caller. -/
def withdraw (o : Order) (p : Part) : Part :=
  judgeMove (leavePlace o.target (removeDisc o.disc (dropOrder o p)))

/-- Withdraw the unissued pick of job `j`, if there is one (R55). -/
def withdrawPickOf (j : JobNum) (p : Part) : Part :=
  match pickOrder p with
  | some o => if !isIssued p o && jobOfOrder p o = some j then withdraw o p else p
  | none => p

end Sys2Proof.Machine
end

