-- ==== Sys2Proof/Machine/JobOps.lean ====
section
/-!
DEFINITION. The job scheduler's shared operations (chapter 2): job states, admission, references, the counters that
disc reports change, and the end of a halt or a cancel.
-/

namespace Sys2Proof.Machine

/-- Replace a job record. -/
def setJob (j : JobNum) (x : Option Job) (p : Part) : Part := { p with jobs := put p.jobs j x }

/-- A job changes state, which sets JOB (R22); a halt reason is kept only in HALTING and HALTED (R21). -/
def setJobState (j : JobNum) (x : Job) (st : JobState) (why : Option HaltReason) (p : Part) : Part :=
  raise .job (setJob j (some { x with state := st, haltReason := why }) p)

/-- The states in which a job holds an admission place (R29). -/
def JobState.holdsPlace : JobState → Bool
  | .running => true
  | .halting => true
  | .cancelling => true
  | _ => false

/-- The states of a job in the run list, which hold image references (R22, R28). -/
def JobState.listed : JobState → Bool
  | .queued => true
  | .running => true
  | .halting => true
  | .halted => true
  | .cancelling => true
  | _ => false

/-- Admission places held (R29). -/
def placesHeld (p : Part) : Nat :=
  (p.jobs.toList.filter fun x => match x with
    | some j => j.state.holdsPlace
    | none => false).length

/-- The job is QUEUED. -/
def isQueued (p : Part) (j : JobNum) : Bool :=
  match p.jobs[j] with
  | some x => x.state = .queued
  | none => false

/-- Admit the earliest QUEUED job of the run list if a place is free (R29). -/
def admitOne (p : Part) : Part :=
  if placesHeld p < 2 then
    match p.runList.find? (isQueued p) with
    | some j =>
      match p.jobs[j] with
      | some x => setJobState j x .running none p
      | none => p
    | none => p
  else p

/-- Admission (R29): there are two places, so one event admits at most two jobs. -/
def admitJobs (p : Part) : Part := admitOne (admitOne p)

/-- A job that held references gives them back (R40). -/
def releaseRefs (x : Job) (p : Part) : Part :=
  let p := dropRef x.defn.discSlot p
  match x.defn.labelSlot with
  | some n => dropRef n p
  | none => p

/-- A listed job becomes DONE or CANCELLED: off the run list, its references released, admission following
(R32, R36, R38, R40). -/
def finishJob (j : JobNum) (x : Job) (st : JobState) (p : Part) : Part :=
  let p := setJobState j x st none p
  admitJobs (releaseRefs x { p with runList := p.runList.filter (· ≠ j) })

/-- A HALTING job with no disc in flight becomes HALTED (R34); a CANCELLING one becomes CANCELLED (R38). -/
def endDrain (j : JobNum) (p : Part) : Part :=
  match p.jobs[j] with
  | some x =>
    if inFlight p j = 0 then
      match x.state with
      | .halting => admitJobs (setJobState j x .halted x.haltReason p)
      | .cancelling => finishJob j x .cancelled p
      | _ => p
    else p
  | none => p

/-- A RUNNING job becomes HALTING: its unissued pick is withdrawn, and with nothing in flight it is HALTED at once
(R33, R34, R68). -/
def haltRunning (j : JobNum) (x : Job) (why : HaltReason) (p : Part) : Part :=
  endDrain j (withdrawPickOf j (setJobState j x .halting (some why) p))

/-- What a disc report adds to the counters of a job (R31). -/
structure CounterChange where
  picked : Nat
  accepted : Nat
  rejected : Nat
  deriving DecidableEq, Repr

/-- A disc report reaches the scheduler (R31): the counters, then completion (R32), the reject limit (R33), and the end
of a halt or a cancel (R34, R38). The in flight count is derived, so the record was removed before the report. -/
def report (job : Option JobNum) (c : CounterChange) (p : Part) : Part :=
  match job with
  | none => p
  | some j =>
    match p.jobs[j] with
    | none => p
    | some x0 =>
      let x := { x0 with
        picked := x0.picked + c.picked, accepted := x0.accepted + c.accepted, rejected := x0.rejected + c.rejected }
      let p := setJob j (some x) p
      if c.accepted != 0 && x.accepted = x.defn.target && x.state.holdsPlace then finishJob j x .done p
      else if c.rejected != 0 && x.state = .running && x.defn.rejectLimit != 0
          && decide (x.defn.rejectLimit ≤ x.rejected) then
        haltRunning j x .rejectLimit p
      else endDrain j p

/-- Withdraw an unissued pick and tell the scheduler (R31, R48, R55). -/
def withdrawAndReport (o : Order) (p : Part) : Part := report (jobOfOrder p o) ⟨0, 0, 0⟩ (withdraw o p)

/-- The job needs discs (R30). -/
def needsDiscs (p : Part) (j : JobNum) : Bool :=
  match p.jobs[j] with
  | some x =>
    x.state = .running && decide (x.accepted + inFlight p j < x.defn.target)
      && decide (x.picked + boundCount p j < 65535)
  | none => false

/-- Bay `b` may take a pick of the given media (R51, condition 6). -/
def bayOffers (p : Part) (m : Media) (b : BayNum) : Bool :=
  let x := p.bays[b]
  x.present && x.enabled && x.state = .empty && !x.disablePending && x.capability.capable m
    && p.thermal.bays[b].condition != .critical

/-- The spindle a pick of the given media is drawn from: spindle 0 if it suits, otherwise spindle 1 (R51). -/
def spindleFor (p : Part) (m : Media) : Option SpindleNum :=
  (List.finRange 2).find? fun n => p.flow.spindles[n] = some m

/-- Conditions 4 to 6 of R51 for a job: the spindle and the bay a pick would use. -/
def pickFor (p : Part) (j : JobNum) : Option (SpindleNum × BayNum) :=
  match p.jobs[j] with
  | some x =>
    if needsDiscs p j then
      match spindleFor p x.defn.media, (List.finRange 10).find? (bayOffers p x.defn.media) with
      | some n, some b => some (n, b)
      | _, _ => none
    else none
  | none => none

/-- The pick prospect of a job (R54). -/
def prospect (p : Part) (j : JobNum) : Bool :=
  (match pickOrder p with
    | some o => jobOfOrder p o = some j && (isIssued p o || eligible p o)
    | none => false)
  || (!p.flow.held && !ambientCritical p && (pickFor p j).isSome)

/-- The earliest job of a run list for which a pick can be made, with its spindle and bay (R51). -/
def choosePick (p : Part) : List JobNum → Option (JobNum × SpindleNum × BayNum)
  | [] => none
  | j :: js =>
    match pickFor p j with
    | some (n, b) => some (j, n, b)
    | none => choosePick p js

/-- Create a pick order if the conditions of R51 hold (R52). -/
def judgePick (p : Part) : Part :=
  if (pickOrder p).isNone && !p.flow.held && !ambientCritical p then
    match choosePick p p.runList with
    | some (j, n, b) =>
      let id := newId p
      let p := createDisc (fun id =>
        ⟨id, some j, .bound, .spindle n, none, none, none, none, none, none, false, none⟩) p
      addOrder .pick id (.spindle n) (.bay b) (modBay b (fun x => { x with state := x.enter .reserved, disc := none }) p)
    | none => p
  else p

end Sys2Proof.Machine
end

