-- ==== Sys2Proof/Machine/EngineOps.lean ====
section
/-!
DEFINITION. The burn set engine's shared operations (chapter 6): gathering, leaving gathering, speed, dropping a
member, the end of a session and the waiting bays, and what grants and service items bring back.
-/

namespace Sys2Proof.Machine

/-- Replace a session record. -/
def setSession (n : SessionNum) (s : Option Session) (p : Part) : Part :=
  { p with engine := { p.engine with sessions := put p.engine.sessions n s } }

/-- Change a session record, if the session exists. -/
def modSession (n : SessionNum) (f : Session → Session) (p : Part) : Part :=
  match p.engine.sessions[n] with
  | some s => setSession n (some (f s)) p
  | none => p

/-- The session of which a bay is a member (R113: at most one). -/
def sessionOf (p : Part) (b : BayNum) : Option SessionNum :=
  lowest p.engine.sessions fun s => match s with
    | some s => s.members.any fun m => m.bay = b
    | none => false

/-- The disc in a bay, as the bay record names it (R43). -/
def discInBay (p : Part) (b : BayNum) : Option Disc := (p.bays[b].disc).bind (findDisc p)

/-! ## Dropping a member -/

/-- The session states whose member discs are BURNING (R114); in GATHERING they are LOADED. -/
def dropLeaves (why : RejectReason) (st : DiscState) : Bool :=
  st = .burning || (why = .calibration && st = .loaded)

/-- The engine reports a disc failed (R47, R130): it is applied if the disc is in a state the report leaves from, and
the failure is then counted for the bay (R83). -/
def reportDropped (b : BayNum) (why : RejectReason) (p : Part) : Part :=
  match discInBay p b with
  | some d => if dropLeaves why d.state then countFailure b (failDisc d why p) else p
  | none => p

/-- Take a bay off a session's member list. -/
def removeMember (n : SessionNum) (b : BayNum) (p : Part) : Part :=
  modSession n (fun s => { s with members := s.members.filter fun m => m.bay ≠ b }) p

/-- Ask for CLEAR n where a drop calls for one (R130). -/
def askClear (wanted : Bool) (b : BayNum) (p : Part) : Part := if wanted then ask (.clear b) p else p

/-- Drop a member (R130); whether the session then ends is judged by the caller (R131). -/
def dropMember (n : SessionNum) (b : BayNum) (why : RejectReason) (clear : Bool) (p : Part) : Part :=
  askClear clear b (reportDropped b why (removeMember n b p))

/-- Drop several members, in member order. -/
def dropMembers (n : SessionNum) (why : RejectReason) (clear : Bool) : List BayNum → Part → Part
  | [], p => p
  | b :: bs, p => dropMembers n why clear bs (dropMember n b why clear p)

/-! ## The end of a session -/

/-- The session exists and has no members. -/
def isEmptySession (p : Part) (n : SessionNum) : Bool :=
  match p.engine.sessions[n] with
  | some s => s.members.isEmpty
  | none => false

/-- The session's record leaves the engine (R131); the waiting bays are placed by `reap`. -/
def endSession (n : SessionNum) (p : Part) : Part := setSession n none (busForgetSession n p)

/-! ## Leaving gathering -/

/-- A speed halved, rounded down, and taken as 1 if that gives 0 (R120). -/
def halved (s : Nat) : Nat := max 1 (s / 2)

/-- A member's speed (R120, step 1). -/
def memberSpeed (p : Part) (m : Media) (b : BayNum) : Nat :=
  let s := p.bays[b].capability.speed m
  if p.thermal.bays[b].condition.hot then halved s else s

/-- The session speed for the given members (R120). -/
def sessionSpeed (p : Part) (m : Media) (request : Nat) (bays : List BayNum) : Nat :=
  let least := (bays.map (memberSpeed p m)).foldl min 48
  let s := if request != 0 && decide (request < least) then request else least
  if p.thermal.ambient.condition.hot then halved s else s

/-- The members' discs become BURNING, with the session number in their records (R119, step 2). -/
def burnMembers (n : SessionNum) : List BayNum → Part → Part
  | [], p => p
  | b :: bs, p =>
    burnMembers n bs (match discInBay p b with
      | some d =>
        if d.state = .loaded then enterState d .burning (fun x => { x with session := some n }) p else p
      | none => p)

/-- The speed request of a session's job (R120). -/
def speedRequest (p : Part) (j : JobNum) : Nat :=
  match p.jobs[j] with
  | some x => x.defn.speed
  | none => 0

/-- A session leaves gathering (R119): members whose bays are no longer capable are dropped, the others become BURNING,
the speed is fixed, and PREPARE is asked for. A session left without members ends; the waiting bays are then placed by
the caller. -/
def leaveGathering (n : SessionNum) (p : Part) : Part :=
  match p.engine.sessions[n] with
  | none => p
  | some s =>
    if s.state = .gathering then
      let unfit := (s.members.map (·.bay)).filter fun b => !(p.bays[b].capability.capable s.media)
      let p := dropMembers n .calibration false unfit (modSession n (fun s => { s with gather := none }) p)
      match p.engine.sessions[n] with
      | none => p
      | some s =>
        if s.members.isEmpty then endSession n p
        else
          let bays := s.members.map (·.bay)
          let p := burnMembers n bays p
          let v := sessionSpeed p s.media (speedRequest p s.job) bays
          ask (.prepare n) (modSession n (fun s =>
            { s with
              state := .preparing
              speed := some v
              members := s.members.map fun m => { m with prepared := false } }) p)
    else p

/-- Leave gathering if the session has reached its set size, or its gather timer stands at 0 (R116, R118). The timer
stands at 0 where the gather time is 0; a timer that has run down to 0 ends gathering here too as a bay joins, although
its expiry's row is not yet taken (DESIGN CHOICE, safe, log entry 29). -/
def judgeFull (n : SessionNum) (p : Part) : Part :=
  match p.engine.sessions[n] with
  | some s =>
    let full := match p.jobs[s.job] with
      | some x => decide (s.members.length = x.defn.setSize)
      | none => false
    if full || s.gather = some 0 then leaveGathering n p else p
  | none => p

/-- The session is GATHERING and its job's pick prospect is false (R118, condition 3). -/
def prospectLost (p : Part) (n : SessionNum) : Bool :=
  match p.engine.sessions[n] with
  | some s => s.state = .gathering && !prospect p s.job
  | none => false

/-! ## Placing a loaded bay -/

/-- The GATHERING session of a job (R116: at most one). -/
def gatheringOf (p : Part) (j : JobNum) : Option SessionNum :=
  lowest p.engine.sessions fun s => match s with
    | some s => s.state = .gathering && s.job = j
    | none => false

/-- The lowest free session number (R112). -/
def freeSession (p : Part) : Option SessionNum := lowest p.engine.sessions Option.isNone

/-- The record of a new session with one member (R112, R116). -/
def newSession (p : Part) (j : JobNum) (x : Job) (b : BayNum) : Session where
  job := j
  slot := x.defn.discSlot
  media := x.defn.media
  blockCount := match p.slots[x.defn.discSlot] with
    | some sl => sl.blockCount
    | none => 0
  state := .gathering
  members := [⟨b, false⟩]
  cursor := 0
  primeCount := none
  speed := none
  gather := some (p.engine.settings.gatherTime * 1000)
  prepare := none
  stall := none
  laggardPoll := false
  close := none

/-- Cases 1 and 2 of R116 for a bay of job `j`: the session the bay joined or started, with the state after, or
nothing if it must wait. -/
def placeIn (p : Part) (j : JobNum) (b : BayNum) : Option (SessionNum × Part) :=
  match gatheringOf p j with
  | some n => some (n, modSession n (fun s => { s with members := s.members ++ [⟨b, false⟩] }) p)
  | none =>
    match freeSession p, p.jobs[j] with
    | some n, some x => some (n, setSession n (some (newSession p j x b)) p)
    | _, _ => none

/-- The job of the disc in a bay. -/
def jobInBay (p : Part) (b : BayNum) : Option JobNum := (discInBay p b).bind (·.job)

/-- The first of the waiting bays that R117 can place. -/
def placeable (p : Part) (b : BayNum) : Bool :=
  match jobInBay p b with
  | some j => (placeIn p j b).isSome
  | none => false

/-- Place the waiting bays from the earliest (R117), judging the end of gathering as each is placed. A session that
ends meanwhile frees a place, and the search begins again from the earliest; `fuel` bays are placed at most. -/
def placeWaiting : Nat → Part → Part
  | 0, p => p
  | fuel + 1, p =>
    match p.engine.waiting.find? (placeable p) with
    | none => p
    | some b =>
      match (jobInBay p b).bind fun j => placeIn p j b with
      | none => p
      | some (n, p) =>
        let p := { p with engine := { p.engine with waiting := p.engine.waiting.filter (· ≠ b) } }
        let p := judgeFull n p
        placeWaiting fuel (if prospectLost p n then leaveGathering n p else p)

/-- End the session if it has no members, and place the waiting bays (R131, R117). -/
def reap (n : SessionNum) (p : Part) : Part :=
  if isEmptySession p n then
    let p := endSession n p
    placeWaiting p.engine.waiting.length p
  else p

/-- A session leaves gathering on a command of its own; if it ended, the waiting bays are placed (R118, R131). -/
def leaveAndReap (n : SessionNum) (p : Part) : Part :=
  let p := leaveGathering n p
  if p.engine.sessions[n].isNone then placeWaiting p.engine.waiting.length p else p

/-- The engine is told that the disc in bay `b` is LOADED (R116). A bay is a member of one session at most and stands in
the waiting bays once (R113, R117), so a bay that is in either already stays there. -/
def placeLoaded (b : BayNum) (j : JobNum) (p : Part) : Part :=
  if (sessionOf p b).isSome || p.engine.waiting.contains b then p
  else match placeIn p j b with
  | some (n, p) =>
    let p := judgeFull n p
    if p.engine.sessions[n].isNone then placeWaiting p.engine.waiting.length p else p
  | none => { p with engine := { p.engine with waiting := p.engine.waiting ++ [b] } }

/-! ## Preparing, priming, streaming, closing -/

/-- A session in PREPARING with members, all PREPARED, becomes PRIMING (R121, R123). -/
def judgePrepared (n : SessionNum) (p : Part) : Part :=
  match p.engine.sessions[n] with
  | some s =>
    if s.state = .preparing && !s.members.isEmpty && s.members.all (·.prepared) then
      enterRing (.broadcast n) (setSession n (some
        { s with
          state := .priming
          primeCount := some (min p.engine.settings.primeSetting s.blockCount)
          prepare := none
          stall := none
          laggardPoll := false }) p)
    else p
  | none => p

/-- The last block has been accepted: the session becomes CLOSING and asks for CLOSE (R124). -/
def beginClosing (n : SessionNum) (p : Part) : Part :=
  ask (.close n) (leaveRing (.broadcast n)
    (modSession n (fun s => { s with state := .closing, stall := none, laggardPoll := false }) p))

/-- The stall time in milliseconds, as it is when a stall timer starts (R115). -/
def stallMs (p : Part) : Nat := p.engine.settings.stallTime * Config.quarterMs

/-- A block of the session has been accepted (R124). -/
def sessionAccepted (n : SessionNum) (p : Part) : Part :=
  match p.engine.sessions[n] with
  | none => p
  | some s =>
    let s := { s with cursor := s.cursor + 1, stall := some (stallMs p), laggardPoll := false }
    let p := setSession n (some s) p
    match s.state with
    | .priming =>
      if s.primeCount = some s.cursor then ask (.go n) (modSession n (fun s => { s with stall := none }) p) else p
    | .streaming => if s.cursor = s.blockCount then beginClosing n p else p
    | _ => p

/-- A grant of the session yielded (R124, R125). -/
def sessionYielded (n : SessionNum) (p : Part) : Part :=
  modSession n (fun s => if s.stall.isNone && !s.laggardPoll then { s with stall := some (stallMs p) } else s) p

/-- The engine is told that the GO of the session has been sent (R123). -/
def goSent (n : SessionNum) (p : Part) : Part :=
  match p.engine.sessions[n] with
  | some s =>
    if s.state = .priming then
      let p := setSession n (some { s with state := .streaming }) p
      if s.cursor = s.blockCount then beginClosing n p else p
    else p
  | none => p

/-- The members of a session that a READY POLL found not ready: their lanes read false (R99). -/
def notReady (s : Session) (lanes : Lanes) : List BayNum :=
  (s.members.map (·.bay)).filter fun b => !lanes.getLsbD b.val

/-- The result of a laggard poll (R126). -/
def laggardResult (n : SessionNum) (lanes : Lanes) (p : Part) : Part :=
  match p.engine.sessions[n] with
  | none => p
  | some s =>
    let stands := s.laggardPoll && (s.state = .priming || s.state = .streaming)
    let p := modSession n (fun s => { s with laggardPoll := false }) p
    if stands then
      let p := dropMembers n .laggard true (notReady s lanes) p
      reap n (modSession n (fun s => if s.members.isEmpty then s else { s with stall := some (stallMs p) }) p)
    else p

end Sys2Proof.Machine
end

