-- ==== Sys2Proof/Machine/VerifyOps.lean ====
section
/-!
DEFINITION. The verifier's shared operations (chapter 7): joining the queue, starting and ending a readback, the check
of a block and grading.
-/

namespace Sys2Proof.Machine

/-- Replace the readback session at a place. -/
def setPlace (k : PlaceNum) (r : Option Readback) (p : Part) : Part :=
  { p with verifier := { p.verifier with places := put p.verifier.places k r } }

/-- The record of a readback session as it starts (R138). -/
def newReadback (b : BayNum) (d : Disc) (j : JobNum) (slot : SlotNum) (s : Slot) : Readback where
  bay := b
  disc := d.id
  job := j
  slot := slot
  length := s.length
  blockCount := s.blockCount
  stalls := d.stalls.getD 0
  sent := false
  taken := 0
  processed := 0
  held := []
  crc := crc32Start
  errorSum := 0
  peak := 0
  silence := none

/-- The session that would start for bay `b`: its disc must wait, and the job and slot of the disc must exist. -/
def readbackFor (p : Part) (b : BayNum) : Option (Disc × Readback) := do
  let d ← discInBay p b
  let j ← d.job
  let x ← p.jobs[j]
  let s ← p.slots[x.defn.discSlot]
  if d.state = .verifyWait then some (d, newReadback b d j x.defn.discSlot s) else none

/-- Start one readback session if a place is free and the queue is not empty (R137). -/
def startOne (p : Part) : Part :=
  match lowest p.verifier.places Option.isNone, p.verifier.queue with
  | some k, b :: rest =>
    let q := { p with verifier := { p.verifier with queue := rest } }
    match readbackFor p b with
    | some (d, r) => ask (.readback k) (setPlace k (some r) (enterState d .verifying id q))
    | none => q
  | _, _ => p

/-- Start readback sessions: a single event can start two (R137). -/
def startReadbacks (p : Part) : Part := startOne (startOne p)

/-- The job of a disc has a label slot. -/
def printsLabel (p : Part) (d : Disc) : Bool :=
  match d.job.bind fun j => p.jobs[j] with
  | some x => x.defn.labelSlot.isSome
  | none => false

/-- A disc has entered PASSED: routed by whether its job prints (R56, R57). -/
def routePassed (d : Disc) (p : Part) : Part :=
  match d.position with
  | .bay b =>
    if printsLabel p d then
      let p := enterState d .printWait id p
      { p with flow := { p.flow with waitList := p.flow.waitList ++ [d.id] } }
    else addOrder .bayToAccept d.id (.bay b) .acceptBin p
  | _ => p

/-- A disc passes (R47, R56), with what its record gains. -/
def passDisc (d : Disc) (f : Disc → Disc) (p : Part) : Part := routePassed d (enterState d .passed f p)

/-- A bay joins the verify queue, which holds no bay twice (R136). -/
def joinVerify (b : BayNum) (p : Part) : Part :=
  if p.verifier.queue.contains b then p
  else { p with verifier := { p.verifier with queue := p.verifier.queue ++ [b] } }

/-- The verifier acts on a disc that has become BURNED (R136). -/
def afterBurned (b : BayNum) (p : Part) : Part :=
  match discInBay p b with
  | none => p
  | some d =>
    match d.job.bind fun j => p.jobs[j] with
    | none => p
    | some x =>
      match x.defn.verify with
      | .none => passDisc d id p
      | _ =>
        startReadbacks (enterState d .verifyWait id (joinVerify b p))

/-- A member's BURN_DONE in CLOSING (R127, R136): the member leaves, its disc is BURNED with its stall count, the bay's
failures are cleared (R83), and the verifier acts. -/
def memberBurned (n : SessionNum) (b : BayNum) (stalls : Nat) (p : Part) : Part :=
  let p := removeMember n b p
  let p := match discInBay p b with
    | some d =>
      if d.state = .burning then
        afterBurned b (modBay b (fun x => { x with failures := 0 })
          (enterState d .burned (fun x => { x with stalls := some stalls, session := none }) p))
      else p
    | none => p
  reap n p

/-- The engine judges a status record of bay `b` (R121, R127, R129). A record counts once the session's PREPARE has been
sent, which its prepare deadline shows in PREPARING; a BURN_DONE counts once CLOSE has been sent, which the close
deadline shows.
A PREPARED record with another media, or with none, drops the member also where its answer is PREPARED already: R121
can be read both ways there, and the model takes the mismatch as what decides (DEDUCED, unsafe, log entry 31). -/
def engineRecord (b : BayNum) (r : StatusRecord) (p : Part) : Part :=
  match sessionOf p b with
  | none => p
  | some n =>
    match p.engine.sessions[n] with
    | none => p
    | some s =>
      match s.state, r.driveState with
      | .preparing, .prepared =>
        if s.prepare.isNone then p
        else if r.mediaPresent = some s.media then
          judgePrepared n (modSession n (fun s =>
            { s with members := s.members.map fun m => if m.bay = b then { m with prepared := true } else m }) p)
        else judgePrepared n (reap n (dropMember n b .calibration true p))
      | .preparing, .prepareFailed =>
        if s.prepare.isNone then p else judgePrepared n (reap n (dropMember n b .calibration false p))
      | .priming, .burnFailed => reap n (dropMember n b .burnError false p)
      | .streaming, .burnFailed => reap n (dropMember n b .burnError false p)
      | .closing, .burnFailed => reap n (dropMember n b .burnError false p)
      | .closing, .burnDone => if s.close.isNone then p else memberBurned n b r.stallCount.toNat p
      | _, _ => p

/-! ## Ending a readback -/

/-- The session at a place leaves the verifier, its held blocks discarded, and the next sessions start
(R143, R148, R150). -/
def removeReadback (k : PlaceNum) (p : Part) : Part :=
  startReadbacks (setPlace k none (busForgetPlace k p))

/-- A readback fails its disc (R47). -/
def failVerify (id : Nat) (why : RejectReason) (f : Disc → Disc) (p : Part) : Part :=
  match findDisc p id with
  | some d => if d.state = .verifying then failDisc d why (modDisc id f p) else p
  | none => p

/-- A readback session ends early (R143): off the ring, its disc FAILED, a CLEAR asked for, its record removed, the
next session started. -/
def endEarly (k : PlaceNum) (why : RejectReason) (p : Part) : Part :=
  match p.verifier.places[k] with
  | none => p
  | some r =>
    let p := failVerify r.disc why id (busForgetPlace k p)
    startReadbacks (setPlace k none (ask (.clear r.bay) p))

/-- The grade that a peak gives (R146). -/
def peakGrade (lim : GradeLimits) (peak : Nat) : Grade :=
  if peak ≤ lim.la then .a else if peak ≤ lim.lb then .b else if peak ≤ lim.lc then .c else .d

/-- A grade one step lower; D stays D (R146). -/
def Grade.lower : Grade → Grade
  | .a => .b
  | .b => .c
  | .c => .d
  | .d => .d

/-- The order of the grades, A best (R146). -/
def Grade.rank : Grade → Nat
  | .a => 0
  | .b => 1
  | .c => 2
  | .d => 3

/-- The grade of a disc: that of its peak, lowered once if the stall count is above the allowance (R146). -/
def discGrade (lim : GradeLimits) (peak stalls allowance : Nat) : Grade :=
  if allowance < stalls then (peakGrade lim peak).lower else peakGrade lim peak

/-- The readback is graded and its outcome reported by verify mode (R146, R147); then it ends normally (R148). -/
def gradeReadback (k : PlaceNum) (r : Readback) (p : Part) : Part :=
  let p := match p.jobs[r.job], findDisc p r.disc with
    | some x, some d =>
      if d.state = .verifying then
        let g := discGrade p.verifier.limits r.peak r.stalls x.defn.stallAllowance
        let note := fun d : Disc => { d with grade := some g, peak := some r.peak }
        let worse := match x.defn.verify, x.defn.gradeLimit with
          | .graded, some lim => decide (lim.rank < g.rank)
          | _, _ => false
        if worse then failVerify r.disc .grade note p else passDisc d note p
      else p
    | _, _ => p
  removeReadback k p

/-! ## The check of a block -/

/-- The bytes of block `i` that lie within the image (R140). -/
def Readback.bytesIn (r : Readback) (i : Nat) : Nat :=
  if i + 1 = r.blockCount then 2048 * r.length - Config.blockBytes * i else Config.blockBytes

/-- The digest that the image store holds for a chunk of a slot (R19). -/
def slotDigest (p : Part) (n : SlotNum) (chunk : Nat) : Option Crc32 :=
  match p.slots[n] with
  | some s => s.digests[chunk]?
  | none => none

/-- The session's record after the processing of a readable block that does not end its chunk (R140). -/
def Readback.takeBlock (r : Readback) (h : HeldBlock) (rest : List HeldBlock) : Readback :=
  { r with
    held := rest
    processed := r.processed + 1
    crc := crc32Feed r.crc (h.data.take (r.bytesIn r.processed))
    errorSum := r.errorSum + h.trailer.toNat
    silence := some Config.silenceMs }

/-- The session's record after a chunk has agreed with its digest (R141). -/
def Readback.endChunk (r : Readback) : Readback :=
  { r with peak := max r.peak r.errorSum, errorSum := 0, crc := crc32Start }

/-- The processing of the first held block ends (R140 to R142). -/
def processBlock (k : PlaceNum) (p : Part) : Part :=
  match p.verifier.places[k] with
  | none => p
  | some r =>
    match r.held with
    | [] => p
    | h :: rest =>
      if h.trailer = 255#8 then endEarly k .verifyUnreadable p
      else
        let i := r.processed
        let r := r.takeBlock h rest
        let last := i + 1 = r.blockCount
        if i % 32 = 31 || last then
          if slotDigest p r.slot (i / 32) = some (crc32Finish r.crc) then
            let p := setPlace k (some r.endChunk) p
            if last then gradeReadback k r.endChunk p else p
          else endEarly k .verifyMismatch p
        else setPlace k (some r) p

/-- The bus hands the verifier a block and its trailer (R140). -/
def handBlock (k : PlaceNum) (h : HeldBlock) (p : Part) : Part :=
  match p.verifier.places[k] with
  | some r =>
    setPlace k (some { r with taken := r.taken + 1, held := r.held ++ [h], silence := some Config.silenceMs }) p
  | none => p

/-- The verifier is told that a READBACK has been sent (R139). -/
def readbackSent (k : PlaceNum) (p : Part) : Part :=
  match p.verifier.places[k] with
  | some r => enterRing (.readback k) (setPlace k (some { r with sent := true, silence := some Config.silenceMs }) p)
  | none => p

end Sys2Proof.Machine
end

