-- ==== Sys2Proof/Machine/Operands.lean ====
section
/-!
DEFINITION. Operand forms: how the fields of a command's payload are read (12.2, 12.4).
-/

namespace Sys2Proof.Machine

/-! ## Markers and numbers (R208) -/

/-- A one-byte field whose marker FFh says that it is absent or left out. -/
def optByte (b : Byte) : Option Nat := if b = 0xFF#8 then none else some b.toNat

/-- A two-byte field with the marker FFFFh. -/
def optWord (b0 b1 : Byte) : Option Nat := if num16 b0 b1 = 65535 then none else some (num16 b0 b1)

/-- A four-byte field with the marker FFFFFFFFh. -/
def optQuad (b0 b1 b2 b3 : Byte) : Option Nat :=
  if num32 b0 b1 b2 b3 = 4294967295 then none else some (num32 b0 b1 b2 b3)

/-- A density trim: signed, with the marker 80h. -/
def optTrim (b : Byte) : Option Int := if b = 0x80#8 then none else some b.toInt

/-- A disc id: 0000h names no disc. -/
def discIdOf (b0 b1 : Byte) : Option Nat := if num16 b0 b1 = 0 then none else some (num16 b0 b1)

/-! ## Numbered things -/

/-- A byte that numbers one of `n` things. -/
def numbered (n : Nat) (b : Byte) : Option (Fin n) := if h : b.toNat < n then some ⟨b.toNat, h⟩ else none

/-! ## Enumerations (12.4) -/

/-- Kind: DISC, LABEL. -/
def kindOf : Nat → Option ImageKind
  | 0 => some .disc
  | 1 => some .label
  | _ => none

/-- Media: CD, DVD, BD. -/
def mediaOf : Nat → Option Media
  | 0 => some .cd
  | 1 => some .dvd
  | 2 => some .bd
  | _ => none

/-- Verify mode: NONE, DIGEST, GRADED. -/
def verifyOf : Nat → Option VerifyMode
  | 0 => some .none
  | 1 => some .digest
  | 2 => some .graded
  | _ => none

/-- Grade limit: A, B, C, D. -/
def gradeOf : Nat → Option Grade
  | 0 => some .a
  | 1 => some .b
  | 2 => some .c
  | 3 => some .d
  | _ => none

/-- Move kind, in the order of 12.4. -/
def moveKindOf : Nat → Option MoveKind
  | 0 => some .pick
  | 1 => some .bayToPrinter
  | 2 => some .bayToAccept
  | 3 => some .bayToReject
  | 4 => some .printerToAccept
  | 5 => some .printerToReject
  | _ => none

/-- An optional field that takes one of a list of names: left out, or a name, or a bad value (R208). -/
def optNamed {α : Type} (names : Nat → Option α) (b : Byte) : Option (Option α) :=
  match optByte b with
  | none => some none
  | some n => (names n).map some

/-! ## Temperature words (R209) -/

/-- The temperature word of a temperature: the lower 10 bits of its two's complement. -/
def tempWord (t : Int) : Nat := (BitVec.ofInt 10 t).toNat

/-- The number that the lower 10 bits of a word hold in two's complement. -/
def wordTemp (w : Nat) : Int := (BitVec.ofNat 10 w).toInt

/-- A temperature word of THERMAL LIMITS: left out, a number, or refused (`none`) for a bit set above the lower 10. -/
def optTemp (b0 b1 : Byte) : Option (Option Int) :=
  let w := num16 b0 b1
  if w = 65535 then some none else if w < 1024 then some (some (wordTemp w)) else none

/-! ## Settling a value -/

/-- A value as a command settled it, and whether it was clamped on the way. -/
structure Settled (α : Type) where
  value : α
  clamped : Bool
  deriving DecidableEq, Repr

/-- A setting that the command carries is clamped to its range; one it leaves out keeps its value. -/
def settleNat (lo hi old : Nat) : Option Nat → Settled Nat
  | none => ⟨old, false⟩
  | some x => ⟨clampNat lo hi x, clampNat lo hi x != x⟩

/-- The same for a signed setting. -/
def settleInt (lo hi old : Int) : Option Int → Settled Int
  | none => ⟨old, false⟩
  | some x => ⟨clampInt lo hi x, clampInt lo hi x != x⟩

end Sys2Proof.Machine
end

