-- ==== Sys2Proof/Machine/Formats.lean ====
section
/-!
DEFINITION. Formats (chapter 12): the bytes of every field, record and response that the part sends.
-/

namespace Sys2Proof.Machine

/-! ## Fields (R208) -/

/-- A yes-or-no field. -/
def yes (b : Bool) : List Byte := [if b then 1 else 0]

/-- An optional one-byte field: FFh when absent. -/
def encByte : Option Nat → List Byte
  | some n => [byte n]
  | none => [0xFF#8]

/-- An optional two-byte field: FFFFh when absent. -/
def encWord : Option Nat → List Byte
  | some n => le16 n
  | none => [0xFF#8, 0xFF#8]

/-- An optional four-byte field: FFFFFFFFh when absent. -/
def encQuad : Option Nat → List Byte
  | some n => le32 n
  | none => [0xFF#8, 0xFF#8, 0xFF#8, 0xFF#8]

/-- An optional disc id: 0000h when absent. -/
def encId : Option Nat → List Byte
  | some n => le16 n
  | none => [0, 0]

/-- A density trim; 80h when absent. -/
def encTrim : Option Int → List Byte
  | some t => [BitVec.ofInt 8 t]
  | none => [0x80#8]

/-- An optional temperature word: FFFFh when absent (R209). -/
def encTemp (t : Option Int) : List Byte := encWord (t.map tempWord)

/-- A timer in quarter seconds remaining, rounded up to the next whole one (R134, R151); FFFFh when it does not run. -/
def encTimer (t : Option Nat) : List Byte := encWord (t.map fun ms => (ms + 249) / 250)

/-! ## Enumerations (12.4) -/

def ImageKind.code : ImageKind → Nat
  | .disc => 0
  | .label => 1

def SlotState.code : SlotState → Nat
  | .filling => 1
  | .frozen => 2
  | .retiring => 3

end Sys2Proof.Machine

/-- The code of a media (12.4). -/
def Sys2Proof.Media.code : Media → Nat
  | .cd => 0
  | .dvd => 1
  | .bd => 2

namespace Sys2Proof.Machine

def JobState.code : JobState → Nat
  | .draft => 0
  | .queued => 1
  | .running => 2
  | .halting => 3
  | .halted => 4
  | .cancelling => 5
  | .done => 6
  | .cancelled => 7

def VerifyMode.code : VerifyMode → Nat
  | .none => 0
  | .digest => 1
  | .graded => 2

def HaltReason.code : HaltReason → Nat
  | .operator => 0
  | .rejectLimit => 1

def DiscState.code : DiscState → Nat
  | .bound => 0
  | .loaded => 1
  | .burning => 2
  | .burned => 3
  | .verifyWait => 4
  | .verifying => 5
  | .passed => 6
  | .printWait => 7
  | .printing => 8
  | .printed => 9
  | .failed => 10

def Position.code : Position → Nat
  | .spindle n => n.val
  | .bay n => 2 + n.val
  | .tray => 12
  | .acceptBin => 13
  | .rejectBin => 14

def RejectReason.code : RejectReason → Nat
  | .burnError => 0
  | .calibration => 1
  | .laggard => 2
  | .verifyMismatch => 3
  | .verifyUnreadable => 4
  | .grade => 5
  | .printFault => 6
  | .cancelled => 7
  | .dropped => 8
  | .orphan => 9

def MoveKind.code : MoveKind → Nat
  | .pick => 0
  | .bayToPrinter => 1
  | .bayToAccept => 2
  | .bayToReject => 3
  | .printerToAccept => 4
  | .printerToReject => 5

def BayState.code : BayState → Nat
  | .offline => 0
  | .empty => 1
  | .reserved => 2
  | .loaded => 3
  | .burning => 4
  | .burned => 5
  | .verifying => 6
  | .holding => 7

def SessionState.code : SessionState → Nat
  | .gathering => 0
  | .preparing => 1
  | .priming => 2
  | .streaming => 3
  | .closing => 4

def PrinterState.code : PrinterState → Nat
  | .idle => 0
  | .printing => 1
  | .pausedHot => 2
  | .pausedRibbon => 3
  | .doneWait => 4

def LabelStatus.code : LabelStatus → Nat
  | .underWay => 0
  | .finished => 1
  | .aborted => 2
  | .notPrinted => 3

def Pace.code : Pace → Nat
  | .full => 0
  | .half => 1

def DiscOutcome.code : DiscOutcome → Nat
  | .accepted => 0
  | .rejected => 1

def RefusalReason.code : RefusalReason → Nat
  | .state => 0
  | .range => 1
  | .tableFull => 2
  | .noSpace => 3
  | .sequence => 4
  | .frozen => 5
  | .notFrozen => 6
  | .inUse => 7
  | .notService => 8
  | .staleMove => 9
  | .noDisc => 10

/-! ## Responses (12.1) -/

/-- The response code. -/
def Response.code : Response → Nat
  | .done _ => 0
  | .doneClamped _ => 1
  | .refused _ _ => 2
  | .crcFault => 3
  | .short => 4
  | .unknown => 5
  | .first => 6
  | .idle => 7

/-- The payload of a response. -/
def Response.payload : Response → List Byte
  | .done p => p
  | .doneClamped p => p
  | .refused _ p => p
  | _ => []

/-- The refusal reason, present only when the code is REFUSED. -/
def Response.reasonBytes : Response → List Byte
  | .refused r _ => [byte r.code]
  | _ => []

/-- The bytes of a response before its check. -/
def Response.body (r : Response) : List Byte :=
  byte r.code :: r.reasonBytes ++ le16 r.payload.length ++ r.payload

/-- The bytes of a response. -/
def Response.bytes (r : Response) : List Byte := r.body ++ le16 (crc16 r.body).toNat

/-- DONE without a payload. -/
def Response.plain : Response := .done []

/-- DONE, or DONE_CLAMPED where a value was clamped (R189). -/
def Response.settled (clamped : Bool) (payload : List Byte) : Response :=
  if clamped then .doneClamped payload else .done payload

/-- REFUSED with a reason and no payload. -/
def Response.refusal (r : RefusalReason) : Response := .refused r []

/-! ## Flag sets -/

/-- The two bytes of a flag set. -/
def encFlags (f : FlagSet) : List Byte := le16 f.toNat

/-- A flag set as a payload gives it; with bit 14 or 15 set it is refused (R208). -/
def flagsOf (b0 b1 : Byte) : Option FlagSet :=
  if num16 b0 b1 < 16384 then some (BitVec.ofNat 14 (num16 b0 b1)) else none

/-! ## Records (12.5) -/

/-- The slot record (R17). -/
def slotRecord (n : SlotNum) : Option Slot → List Byte
  | none =>
    [byte n.val, 0] ++ encByte none ++ encQuad none ++ encQuad none ++ encWord none ++ encQuad none ++ encWord none
      ++ [0, 0, 0, 0, 0, 0, 0, 0]
  | some s =>
    [byte n.val, byte s.state.code, byte s.kind.code] ++ le32 s.length ++ le32 s.blockCount ++ le16 s.chunkCount
      ++ le32 s.fill ++ le16 s.first ++ [byte s.refs] ++ le16 s.digests.length
      ++ (match s.digest with
        | some d => 1 :: le32 d.toNat
        | none => [0, 0, 0, 0, 0])

/-- The definition of a job (12.3). -/
def defnBytes (d : JobDef) : List Byte :=
  [byte d.discSlot.val, byte d.media.code] ++ le16 d.target ++ [byte d.setSize, byte d.speed, byte d.verify.code]
    ++ encByte (d.gradeLimit.map Grade.rank) ++ [byte d.stallAllowance] ++ encByte (d.labelSlot.map Fin.val)
    ++ encTrim (some d.trim) ++ le16 d.rejectLimit

/-- The job record (R41). -/
def jobRecord (p : Part) (n : JobNum) (j : Job) : List Byte :=
  [byte n.val, byte j.state.code] ++ defnBytes j.defn ++ le16 j.picked ++ le16 j.accepted ++ le16 j.rejected
    ++ [byte (inFlight p n)] ++ encByte (j.haltReason.map HaltReason.code)

/-- The move order byte of a disc record (R71). -/
def orderMark (p : Part) (id : Nat) : Byte :=
  match orderOf p id with
  | none => 0
  | some o => if isIssued p o then 2 else 1

/-- The disc record (R71). -/
def discRecord (p : Part) (d : Disc) : List Byte :=
  le16 d.id ++ encByte (d.job.map Fin.val) ++ [byte d.state.code, byte d.position.code]
    ++ encByte (d.destination.map Position.code) ++ encByte (d.session.map Fin.val) ++ encByte (d.loadBay.map Fin.val)
    ++ encWord d.stalls ++ encByte (d.grade.map Grade.rank) ++ encWord d.peak ++ yes d.printed
    ++ encByte (d.reason.map RejectReason.code) ++ [orderMark p d.id]

/-- A capability (12.5). -/
def capabilityBytes (c : Capability) : List Byte := [byte c.cd, byte c.dvd, byte c.bd]

/-- The bay record (R89). -/
def bayRecord (p : Part) (b : BayNum) : List Byte :=
  let x := p.bays[b]
  [byte b.val] ++ yes x.present ++ yes x.enabled ++ yes x.disablePending ++ capabilityBytes x.capability
    ++ [byte x.state.code] ++ encId x.disc ++ encTemp x.temperature ++ [byte x.failures] ++ encWord x.errorCode
    ++ [byte p.thermal.bays[b].condition.rank] ++ encByte ((sessionOf p b).map Fin.val)

/-- The members of a session record: bay and answer. -/
def memberBytes (m : Member) : List Byte := [byte m.bay.val, if m.prepared then 1 else 0]

/-- The waiting bays, with their count (R134). -/
def waitingBytes (p : Part) : List Byte :=
  byte p.engine.waiting.length :: p.engine.waiting.map fun b => byte b.val

/-- The session record (R134). -/
def sessionRecord (p : Part) (n : SessionNum) : List Byte :=
  match p.engine.sessions[n] with
  | none => [byte n.val, 0xFF#8] ++ waitingBytes p
  | some s =>
    [byte n.val, byte s.state.code, byte s.job.val, byte s.slot.val, byte s.media.code] ++ le32 s.blockCount
      ++ le32 s.cursor ++ encByte s.primeCount ++ encByte s.speed ++ encTimer s.gather ++ encTimer s.prepare
      ++ encTimer s.stall ++ encTimer s.close ++ yes s.laggardPoll ++ [byte s.members.length]
      ++ s.members.flatMap memberBytes ++ waitingBytes p

/-- The part of a verify record that tells of one place (R151). -/
def placeBytes : Option Readback → List Byte
  | none =>
    [0] ++ encByte none ++ encId none ++ encByte none ++ encByte none ++ encQuad none ++ encByte none ++ encQuad none
      ++ encQuad none ++ encWord none ++ encWord none ++ encTimer none
  | some r =>
    [1, byte r.bay.val] ++ le16 r.disc ++ [byte r.job.val, byte r.slot.val] ++ le32 r.blockCount ++ yes r.sent
      ++ le32 r.taken ++ le32 r.processed ++ le16 r.errorSum ++ le16 r.peak ++ encTimer r.silence

/-- The grade limits. -/
def limitBytes (l : GradeLimits) : List Byte := le16 l.la ++ le16 l.lb ++ le16 l.lc

/-- An entry of the verify queue: bay and disc id. -/
def queueBytes (p : Part) (b : BayNum) : List Byte := byte b.val :: encId p.bays[b].disc

/-- The verify record (R151). -/
def verifyRecord (p : Part) : List Byte :=
  byte p.verifier.queue.length :: p.verifier.queue.flatMap (queueBytes p) ++ placeBytes p.verifier.places[0]
    ++ placeBytes p.verifier.places[1] ++ limitBytes p.verifier.limits

/-- The eight print settings (12.3). -/
def printSettingBytes (s : PrintSettings) : List Byte :=
  le16 s.ri ++ le16 s.ro ++ [byte s.kt] ++ le16 s.m0 ++ le16 s.m1 ++ le16 s.m2 ++ le16 s.tmin ++ le16 s.tmax

/-- The last line of a printer record. -/
def lastLineBytes : Option LastLine → List Byte
  | none => encTemp none ++ encWord none ++ encWord none ++ encWord none ++ encWord none
  | some l => encTemp (some l.q) ++ le16 l.f ++ le16 l.t0 ++ le16 l.t1 ++ le16 l.t2

/-- The printer record, with the two switches as they stand; the hot timer is rounded up to whole seconds (R174). -/
def printerRecord (p : Part) (pins : Pins) : List Byte :=
  let r := p.printer
  [byte r.state.code] ++ encId r.disc ++ encByte (r.status.map LabelStatus.code)
    ++ encByte (r.label.map (·.slot.val)) ++ encWord (r.label.map (·.length)) ++ encTrim (r.label.map (·.trim))
    ++ encWord (r.label.map (·.cursor)) ++ le32 r.ribbon ++ le16 r.strobe ++ [byte r.pace.code]
    ++ encByte (r.hot.map fun ms => (ms + 999) / 1000) ++ lastLineBytes r.last ++ printSettingBytes r.settings
    ++ yes pins.breakShown ++ yes pins.trayShown

/-- A sensor's reading and condition. -/
def sensorBytes (s : Sensor) : List Byte := encTemp s.reading ++ [byte s.condition.rank]

/-- A pair of limits. -/
def pairBytes (l : LimitPair) : List Byte := le16 (tempWord l.high) ++ le16 (tempWord l.critical)

/-- The six limits (12.3). -/
def thermalLimitBytes (l : ThermalLimits) : List Byte := pairBytes l.head ++ pairBytes l.ambient ++ pairBytes l.bay

/-- The thermal record (R183). -/
def thermalRecord (p : Part) : List Byte :=
  sensorBytes p.thermal.head ++ sensorBytes p.thermal.ambient ++ p.thermal.bays.toList.flatMap sensorBytes
    ++ thermalLimitBytes p.thermal.limits

/-- A results entry (R203). -/
def resultBytes (e : ResultEntry) : List Byte :=
  le16 e.disc ++ encByte (e.job.map Fin.val) ++ [byte e.outcome.code] ++ encByte (e.reason.map RejectReason.code)
    ++ encByte (e.grade.map Grade.rank) ++ encWord e.stalls ++ encByte (e.bay.map Fin.val) ++ yes e.printed

/-- The move of MOVE NEXT (12.3): `issue` is 0, 1 or 2. -/
def moveBytes (issue : Nat) (o : Option Order) (held : Bool) : List Byte :=
  [byte issue] ++ encByte (o.map (·.kind.code)) ++ encId (o.map (·.disc)) ++ encByte (o.map (·.source.code))
    ++ encByte (o.map (·.target.code)) ++ yes held

/-- The burn settings (12.3). -/
def burnSettingBytes (s : BurnSettings) : List Byte := le16 s.gatherTime ++ [byte s.primeSetting, byte s.stallTime]

end Sys2Proof.Machine
end

