-- ==== Sys2Proof/Machine/Frames.lean ====
section
/-!
DEFINITION. Frames on a master link (chapter 10): the summary byte, judging a frame, what the part clocks out, and the
taking of a command.
-/

namespace Sys2Proof.Machine

/-! ## The summary byte (R191) -/

/-- A bit of the summary byte. -/
def indication (b : Bool) (bit : Nat) : Byte := if b then BitVec.twoPow 8 bit else 0

/-- At least one job is HALTING or CANCELLING. -/
def jobDraining (p : Part) : Bool :=
  p.jobs.toList.any fun x => match x with
    | some j => j.state = .halting || j.state = .cancelling
    | none => false

/-- A MOVE NEXT would return an order (R61). -/
def moveAvailable (p : Part) : Bool := p.flow.issued.isSome || (firstEligible p).isSome

/-- The summary byte of link `l` (R191, 12.1). -/
def summaryByte (p : Part) (l : Link) : Byte :=
  indication (attention p l) 7 ||| indication (moveAvailable p) 6 ||| indication (p.links[l].unread != 0) 5
    ||| indication (p.links[l].flags.getLsbD Flag.reset.index) 4 ||| indication p.flow.held 3
    ||| indication p.strap 2
    ||| indication (p.printer.state = .pausedHot || p.printer.state = .pausedRibbon) 1
    ||| indication (jobDraining p) 0

/-! ## Judging a frame (R185 to R187) -/

/-- What a frame is, judged by its bytes. -/
inductive Verdict where
  /-- no byte: not a frame -/
  | nothing
  /-- one byte: a summary read -/
  | summary
  | unknown
  | short
  | crcFault
  /-- a command frame that is taken: its code and its payload -/
  | command (code : Nat) (payload : List Byte)
  /-- a bulk frame that is taken: its slot byte, block index and data -/
  | bulk (slot : Byte) (index : BitVec 32) (data : List Byte)
  deriving DecidableEq, Repr

/-- The code of IMAGE WRITE (12.3). -/
def imageWriteCode : Nat := 2

/-- The highest command code (12.3): bytes 27h to FFh are not command codes. -/
def lastCode : Nat := 38

/-- The bytes of a command frame up to its check. -/
def commandHead (code : Nat) (payload : List Byte) : List Byte := byte code :: le16 payload.length ++ payload

/-- A command frame (12.1). -/
def commandFrame (code : Nat) (payload : List Byte) : List Byte :=
  commandHead code payload ++ le16 (crc16 (commandHead code payload)).toNat

/-- The bytes of a bulk frame up to its check. -/
def bulkHead (slot : Byte) (index : BitVec 32) (data : List Byte) : List Byte :=
  byte imageWriteCode :: slot :: le32 index.toNat ++ data

/-- A bulk frame (12.1). -/
def bulkFrame (slot : Byte) (index : BitVec 32) (data : List Byte) : List Byte :=
  bulkHead slot index data ++ le32 (crc32 (bulkHead slot index data)).toNat

/-- A command frame, judged from its code and the bytes after it (R186). -/
def judgeCommand (code : Nat) : List Byte → Verdict
  | b0 :: b1 :: rest =>
    let n := num16 b0 b1
    if Config.maxPayload < n then .crcFault
    else if rest.length < n + 2 then .short
    else if (rest.drop n).take 2 = le16 (crc16 (commandHead code (rest.take n))).toNat then
      .command code (rest.take n)
    else .crcFault
  | _ => .short

/-- A bulk frame, judged from the bytes after its code (R187). -/
def judgeBulk : List Byte → Verdict
  | s :: i0 :: i1 :: i2 :: i3 :: rest =>
    if rest.length < Config.blockBytes + 4 then .short
    else
      let index := BitVec.ofNat 32 (num32 i0 i1 i2 i3)
      let data := rest.take Config.blockBytes
      if (rest.drop Config.blockBytes).take 4 = le32 (crc32 (bulkHead s index data)).toNat then .bulk s index data
      else .crcFault
  | _ => .short

/-- A frame, judged by the whole bytes the master clocked (R185). -/
def judgeFrame : List Byte → Verdict
  | [] => .nothing
  | [_] => .summary
  | c :: rest =>
    if c.toNat = imageWriteCode then judgeBulk rest
    else if c.toNat ≤ lastCode then judgeCommand c.toNat rest
    else .unknown

/-! ## What a link command spells (12.3) -/

/-- The code and the payload of a command that is sent as a command frame. -/
def commandOf : Instr → Option (Nat × List Byte)
  | .imageOpen _ p _ => some (1, p)
  | .imageFreeze _ p _ => some (3, p)
  | .imageRetire _ p _ => some (4, p)
  | .imageThaw _ p _ => some (5, p)
  | .imageStatus _ p _ => some (6, p)
  | .jobDefine _ p _ => some (7, p)
  | .jobAmend _ p _ => some (8, p)
  | .jobQueue _ p _ => some (9, p)
  | .jobHalt _ p _ => some (10, p)
  | .jobResume _ p _ => some (11, p)
  | .jobCancel _ p _ => some (12, p)
  | .jobRemove _ p _ => some (13, p)
  | .jobStatus _ p _ => some (14, p)
  | .moveNext _ p _ => some (15, p)
  | .moveDone _ p _ => some (16, p)
  | .moveFailedNoDisc _ p _ => some (17, p)
  | .moveFailedDropped _ p _ => some (17, p)
  | .moveFailedJam _ p _ => some (17, p)
  | .flowResume _ p _ => some (18, p)
  | .spindleReport _ p _ => some (19, p)
  | .binReport _ p _ => some (20, p)
  | .discRead _ p _ => some (21, p)
  | .bayEnable _ p _ => some (22, p)
  | .bayDisable _ p _ => some (23, p)
  | .bayStatus _ p _ => some (24, p)
  | .burnSettings _ p _ => some (25, p)
  | .sessionStatus _ p _ => some (26, p)
  | .verifyLimits _ p _ => some (27, p)
  | .verifyStatus _ p _ => some (28, p)
  | .printSettings _ p _ => some (29, p)
  | .ribbonLoaded _ p _ _ => some (30, p)
  | .printerStatus _ p _ _ _ => some (31, p)
  | .thermalLimits _ p _ => some (32, p)
  | .thermalRead _ p _ => some (33, p)
  | .linkReset _ p _ => some (34, p)
  | .eventsRead _ p _ => some (35, p)
  | .eventsClear _ p _ => some (36, p)
  | .eventsMask _ p _ => some (37, p)
  | .resultsRead _ p _ => some (38, p)
  | .nullCommand _ p _ => some (0, p)
  | _ => none

/-- The fill a link command's frame ends with. -/
def fillOf : Instr → Nat
  | .imageOpen _ _ n => n
  | .imageWrite _ _ _ _ n => n
  | .imageFreeze _ _ n => n
  | .imageRetire _ _ n => n
  | .imageThaw _ _ n => n
  | .imageStatus _ _ n => n
  | .jobDefine _ _ n => n
  | .jobAmend _ _ n => n
  | .jobQueue _ _ n => n
  | .jobHalt _ _ n => n
  | .jobResume _ _ n => n
  | .jobCancel _ _ n => n
  | .jobRemove _ _ n => n
  | .jobStatus _ _ n => n
  | .moveNext _ _ n => n
  | .moveDone _ _ n => n
  | .moveFailedNoDisc _ _ n => n
  | .moveFailedDropped _ _ n => n
  | .moveFailedJam _ _ n => n
  | .flowResume _ _ n => n
  | .spindleReport _ _ n => n
  | .binReport _ _ n => n
  | .discRead _ _ n => n
  | .bayEnable _ _ n => n
  | .bayDisable _ _ n => n
  | .bayStatus _ _ n => n
  | .burnSettings _ _ n => n
  | .sessionStatus _ _ n => n
  | .verifyLimits _ _ n => n
  | .verifyStatus _ _ n => n
  | .printSettings _ _ n => n
  | .ribbonLoaded _ _ n _ => n
  | .printerStatus _ _ n _ _ => n
  | .thermalLimits _ _ n => n
  | .thermalRead _ _ n => n
  | .linkReset _ _ n => n
  | .eventsRead _ _ n => n
  | .eventsClear _ _ n => n
  | .eventsMask _ _ n => n
  | .resultsRead _ _ n => n
  | .nullCommand _ _ n => n
  | _ => 0

/-- The bytes that the master clocks for a link command, the fill shown as bytes of 00h; none for a command that is no
frame. -/
def frameOf (i : Instr) : Option (List Byte) :=
  let fill := List.replicate (fillOf i) (0#8)
  match i with
  | .imageWrite _ slot index data _ => some (bulkFrame slot index data ++ fill)
  | .summaryRead _ sent => some [sent]
  | .discardedFrame _ bytes => some bytes
  | i => (commandOf i).map fun x => commandFrame x.1 x.2 ++ fill

/-- The MOVE FAILED that a payload spells: its failure byte names the row (12.3, 12.4); a payload that RANGE refuses
stands under the first of the three rows. -/
def moveFailedOf (l : Link) (p : List Byte) (fill : Nat) : Instr :=
  match p with
  | [_, _, r] =>
    if r = 1#8 then .moveFailedDropped l p fill
    else if r = 2#8 then .moveFailedJam l p fill
    else .moveFailedNoDisc l p fill
  | _ => .moveFailedNoDisc l p fill

/-- The command that a taken command frame spells, by its code (12.3); `pins` gives the switches that two of the
commands read. -/
def commandFrom (l : Link) (pins : Pins) (code : Nat) (p : List Byte) (fill : Nat) : Option Instr :=
  match code with
  | 0 => some (.nullCommand l p fill)
  | 1 => some (.imageOpen l p fill)
  | 3 => some (.imageFreeze l p fill)
  | 4 => some (.imageRetire l p fill)
  | 5 => some (.imageThaw l p fill)
  | 6 => some (.imageStatus l p fill)
  | 7 => some (.jobDefine l p fill)
  | 8 => some (.jobAmend l p fill)
  | 9 => some (.jobQueue l p fill)
  | 10 => some (.jobHalt l p fill)
  | 11 => some (.jobResume l p fill)
  | 12 => some (.jobCancel l p fill)
  | 13 => some (.jobRemove l p fill)
  | 14 => some (.jobStatus l p fill)
  | 15 => some (.moveNext l p fill)
  | 16 => some (.moveDone l p fill)
  | 17 => some (moveFailedOf l p fill)
  | 18 => some (.flowResume l p fill)
  | 19 => some (.spindleReport l p fill)
  | 20 => some (.binReport l p fill)
  | 21 => some (.discRead l p fill)
  | 22 => some (.bayEnable l p fill)
  | 23 => some (.bayDisable l p fill)
  | 24 => some (.bayStatus l p fill)
  | 25 => some (.burnSettings l p fill)
  | 26 => some (.sessionStatus l p fill)
  | 27 => some (.verifyLimits l p fill)
  | 28 => some (.verifyStatus l p fill)
  | 29 => some (.printSettings l p fill)
  | 30 => some (.ribbonLoaded l p fill pins.breakShown)
  | 31 => some (.printerStatus l p fill pins.breakShown pins.trayShown)
  | 32 => some (.thermalLimits l p fill)
  | 33 => some (.thermalRead l p fill)
  | 34 => some (.linkReset l p fill)
  | 35 => some (.eventsRead l p fill)
  | 36 => some (.eventsClear l p fill)
  | 37 => some (.eventsMask l p fill)
  | 38 => some (.resultsRead l p fill)
  | _ => none

/-- The command of the table that a frame is, from its bytes (R185 to R188, 12.3): a frame that is discarded is the
command DISCARDED_FRAME, and so is a select that rises without a whole byte, which the part ignores (R185) but which
ends a select that straddles a reset (R196). None is left for a code that the table of 12.3 does not have. -/
def frameCommand (l : Link) (pins : Pins) (bytes : List Byte) : Option Instr :=
  match judgeFrame bytes with
  | .summary => some (.summaryRead l (bytes.headD 0))
  | .command code p => commandFrom l pins code p (bytes.length - (5 + p.length))
  | .bulk slot index data => some (.imageWrite l slot index data (bytes.length - 65546))
  | _ => some (.discardedFrame l bytes)

/-! ## The taking of a command (R188 to R190) -/

/-- The first `n` bytes the part clocks out during a frame: the summary byte, the pending response, fill (R190). -/
def clockOut (p : Part) (l : Link) (r : Response) (n : Nat) : List Byte :=
  ((summaryByte p l :: r.bytes) ++ List.replicate n 0).take n

/-- The link's port after a frame of `n` bytes that leaves response `r` pending; `p` and `q` are the part and the port
before the frame. -/
def Port.after (p : Part) (l : Link) (q : Port) (n : Nat) (r : Response) : Port :=
  { q with rx := [], response := r, clockedOut := clockOut p l q.response n }

/-- The four pairs of bits that carry a byte, one pair at each clock, most significant bits first (R185). -/
def bitPairs (b : Byte) : List (BitVec 2) :=
  [b.extractLsb' 6 2, b.extractLsb' 4 2, b.extractLsb' 2 2, b.extractLsb' 0 2]

/-- The data outputs LnD2 and LnD3 of a link: none while the part is held in tower reset, when both are released
(R195); otherwise the pairs of bits that the part gave on them at the clocks of the link's last frame (R185). Which of
the two lines carries the first bit of a pair the spec does not say, and a pair does not either. -/
def dataOutputs (s : State) (l : Link) : Option (List (BitVec 2)) :=
  if s.part.held then none else some (s.ports[l].clockedOut.flatMap bitPairs)

/-- The link's port as a select that straddled the reset rises (R196). -/
def Port.risen (q : Port) : Port := { q with clockedOut := [], straddling := false }

/-- Replace a port. -/
def setPort (l : Link) (q : Port) (s : State) : State := { s with ports := put s.ports l q }

/-- A frame ends on link `l`: none is taken while the part is held in tower reset (R195), nor one that straddles the
reset (R196); otherwise `k` says what comes of it. -/
def frameEnds (l : Link) (s : State) (k : Result) : Result :=
  if s.part.held then .next s
  else if s.ports[l].straddling then .next (setPort l s.ports[l].risen s)
  else k

/-- The outcome of a frame of `n` bytes on link `l`, taken in state `s`: response `r`, and the part after it. -/
def answered (l : Link) (n : Nat) (s : State) (r : Response) (p : Part) : State :=
  { s with ports := put s.ports l (s.ports[l].after s.part l n r), part := p }

/-- A command frame with a payload and fill: what `f` makes of the part is its response and its effect. A payload above
240 bytes is answered CRC_FAULT (R186). -/
def linkCommand (l : Link) (payload : List Byte) (fill : Nat) (f : Part → Response × Part) (s : State) : Result :=
  frameEnds l s
    (let n := 5 + payload.length + fill
     if Config.maxPayload < payload.length then .next (answered l n s .crcFault s.part)
     else .next (answered l n s (f s.part).1 (f s.part).2))

/-- A refused command changes nothing. -/
def refuse (r : RefusalReason) (p : Part) : Response × Part := (.refusal r, p)

/-- A payload that does not fit its layout, or a field out of range (R188, R208). -/
def rangeError (p : Part) : Response × Part := refuse .range p

/-- A step of the part's own, in which no frame takes part: nothing happens while the part is held in tower reset. -/
def event (f : Part → Part) (s : State) : Result :=
  .next (if s.part.held then s else { s with part := f s.part })

end Sys2Proof.Machine
end

