-- ==== Sys2Proof/Machine/Images.lean ====
section
/-!
DEFINITION. The commands of the image store (chapter 1): IMAGE OPEN, WRITE, FREEZE, RETIRE, THAW and STATUS.
-/

namespace Sys2Proof.Machine

/-- The record of a slot as it is opened (R5). -/
def newSlot (k : ImageKind) (length first : Nat) : Slot where
  kind := k
  state := .filling
  length := length
  fill := 0
  first := first
  refs := 0
  crc := some crc32Start
  digests := []
  digest := none

/-- Open a slot of a kind and length that are in range (R5, checks 2 and 3, and the effect). -/
def openSlot (k : ImageKind) (length : Nat) (p : Part) : Response × Part :=
  match lowest p.slots Option.isNone with
  | none => refuse .tableFull p
  | some n =>
    match firstFit p.slots (chunkCountOf k length) with
    | none => refuse .noSpace p
    | some c =>
      (.done (byte n.val :: le16 c ++ le16 (chunkCountOf k length)),
        raise .image (setSlot n (some (newSlot k length c)) p))

/-- IMAGE OPEN (R5): kind 1, declared length 4. -/
def imageOpenBody (payload : List Byte) (p : Part) : Response × Part :=
  match payload with
  | [k, l0, l1, l2, l3] =>
    match kindOf k.toNat with
    | some k => if lengthOk k (num32 l0 l1 l2 l3) then openSlot k (num32 l0 l1 l2 l3) p else rangeError p
    | none => rangeError p
  | _ => rangeError p

/-- R5. -/
def execImageOpen (l : Link) (payload : List Byte) (fill : Nat) (s : State) : Result :=
  linkCommand l payload fill (imageOpenBody payload) s

/-- A refusal with SEQUENCE carries the fill cursor and the block count (R6, R10). -/
def sequenceRefusal (s : Slot) : Response := .refused .sequence (le32 s.fill ++ le32 s.blockCount)

/-- The bytes of a frame's data that lie within the image (R7). -/
def Slot.within (s : Slot) (data : List Byte) : List Byte := data.take (s.bytesIn s.fill)

/-- The slot's record after a block is taken (R7, R8). -/
def Slot.afterBlock (s : Slot) (data : List Byte) : Slot :=
  let crc := crc32Feed (s.crc.getD crc32Start) (s.within data)
  let last := s.fill + 1 = s.blockCount
  if s.fill % 32 = 31 || last then
    { s with
      fill := s.fill + 1
      crc := if last then none else some crc32Start
      digests := s.digests ++ [crc32Finish crc] }
  else { s with fill := s.fill + 1, crc := some crc }

/-- A bulk frame of `n` bytes that passed its checks (R6 to R8), its slot byte, block index and 65,536 data bytes
given. A block whose place lies outside image memory is a fault. -/
def takeBulk (l : Link) (n : Nat) (slot : Byte) (index : BitVec 32) (data : List Byte) (s : State) : Result :=
  match numbered 8 slot with
  | none => .next (answered l n s (.refusal .range) s.part)
  | some k =>
    match s.part.slots[k] with
    | none => .next (answered l n s (.refusal .state) s.part)
    | some x =>
      match x.state with
      | .filling =>
        if x.fill = x.blockCount || index.toNat ≠ x.fill then .next (answered l n s (sequenceRefusal x) s.part)
        else if !x.inMemory then .fault .outsideImageMemory
        else
          .next { answered l n s (.done (slot :: le32 (x.fill + 1)))
              (setSlot k (some (x.afterBlock data)) s.part) with
            mem := writeBytes s.mem (x.blockAddress x.fill) (x.within data) }
      | _ => .next (answered l n s (.refusal .frozen) (raise .protect s.part))

/-- IMAGE WRITE (R6 to R9, R187). The data bytes are the 65,536 of the frame; a frame with fewer ends before its check
and is answered SHORT, and bytes beyond them count as fill. -/
def execImageWrite (l : Link) (slot : Byte) (index : BitVec 32) (data : List Byte) (fill : Nat) (s : State) : Result :=
  frameEnds l s
    (if data.length < Config.blockBytes then .next (answered l (10 + data.length) s .short s.part)
     else takeBulk l (10 + data.length + fill) slot index (data.take Config.blockBytes) s)

/-- The image digest: the CRC-32 over the chunk digests, each least significant byte first (R10). -/
def imageDigest (digests : List Crc32) : Crc32 := crc32 (digests.flatMap fun d => le32 d.toNat)

/-- A command that names a slot by one byte. -/
def onSlot (payload : List Byte) (f : SlotNum → Part → Response × Part) (p : Part) : Response × Part :=
  match payload with
  | [n] =>
    match numbered 8 n with
    | some k => f k p
    | none => rangeError p
  | _ => rangeError p

/-- The slot's record as it is frozen (R10). -/
def Slot.freeze (s : Slot) : Slot := { s with state := .frozen, digest := some (imageDigest s.digests) }

/-- IMAGE FREEZE of slot `n` (R10). -/
def freezeSlot (n : SlotNum) (p : Part) : Response × Part :=
  match p.slots[n] with
  | some s =>
    match s.state with
    | .filling =>
      if s.fill = s.blockCount then
        (.done (le32 (imageDigest s.digests).toNat), raise .image (setSlot n (some s.freeze) p))
      else (sequenceRefusal s, p)
    | _ => refuse .state p
  | none => refuse .state p

/-- R10. -/
def execImageFreeze (l : Link) (payload : List Byte) (fill : Nat) (s : State) : Result :=
  linkCommand l payload fill (onSlot payload freezeSlot) s

/-- The state byte of a slot (12.4). -/
def slotStateByte : Option Slot → Byte
  | none => 0
  | some s => byte s.state.code

/-- A slot is put into a state by a retire; the response carries the resulting state (R11, R16). -/
def retireTo (n : SlotNum) (x : Option Slot) (p : Part) : Response × Part :=
  (.done [slotStateByte x], raise .image (setSlot n x p))

/-- IMAGE RETIRE of slot `n` (R11). -/
def retireSlot (n : SlotNum) (p : Part) : Response × Part :=
  match p.slots[n] with
  | none => refuse .state p
  | some s =>
    match s.state with
    | .filling => retireTo n none p
    | .frozen => retireTo n (if s.refs = 0 then none else some { s with state := .retiring }) p
    | .retiring => refuse .state p

/-- R11. -/
def execImageRetire (l : Link) (payload : List Byte) (fill : Nat) (s : State) : Result :=
  linkCommand l payload fill (onSlot payload retireSlot) s

/-- The slot's record as it is thawed (R14). -/
def Slot.thaw (s : Slot) : Slot := { s with state := .filling, fill := s.blockCount, crc := none, digest := none }

/-- IMAGE THAW of slot `n` (R14). -/
def thawSlot (n : SlotNum) (p : Part) : Response × Part :=
  if !p.strap then (.refusal .notService, raise .protect p)
  else match p.slots[n] with
  | some s =>
    if s.state ≠ .frozen then refuse .state p
    else if s.refs ≠ 0 then refuse .inUse p
    else (.plain, raise .image (setSlot n (some s.thaw) p))
  | none => refuse .state p

/-- R14. -/
def execImageThaw (l : Link) (payload : List Byte) (fill : Nat) (s : State) : Result :=
  linkCommand l payload fill (onSlot payload thawSlot) s

/-- IMAGE STATUS (R17). -/
def slotStatus (n : SlotNum) (p : Part) : Response × Part := (.done (slotRecord n p.slots[n]), p)

/-- R17. -/
def execImageStatus (l : Link) (payload : List Byte) (fill : Nat) (s : State) : Result :=
  linkCommand l payload fill (onSlot payload slotStatus) s

end Sys2Proof.Machine
end

