-- ==== Sys2Proof/Machine/PrinterOps.lean ====
section
/-!
DEFINITION. The label printer's shared operations (chapter 8): the ring mask, history classes, strobe times, starting,
finishing and aborting a label, and leaving the tray.
-/

namespace Sys2Proof.Machine

/-- Change the printer record. -/
def modPrinter (f : Printer → Printer) (p : Part) : Part := { p with printer := f p.printer }

/-! ## One line -/

/-- The dot set whose column x is in it when the test holds. -/
def columns (test : Nat → Bool) : DotSet := BitVec.ofFnLE fun x : Fin 1440 => test x.val

/-- The dot at column x of a raster line: bit 7 − x mod 8 of byte x / 8 (R155). -/
def artworkDot (line : List Byte) (x : Nat) : Bool := (line.getD (x / 8) 0).getLsbD (7 - x % 8)

/-- The distance of a dot from the middle of the disc, squared, in doubled coordinates (R159). -/
def radius2 (x y : Nat) : Int := (2 * (x : Int) - 1439) ^ 2 + (2 * (y : Int) - 1439) ^ 2

/-- The ring mask: the dot at column x of line y lies in the printable ring (R159). -/
def ringMask (s : PrintSettings) (x y : Nat) : Bool :=
  decide (4 * (s.ri : Int) ^ 2 ≤ radius2 x y) && decide (radius2 x y ≤ 4 * (s.ro : Int) ^ 2)

/-- The printed set of line y (R158, step 5). -/
def printedSet (s : PrintSettings) (line : List Byte) (y : Nat) : DotSet :=
  columns fun x => artworkDot line x && ringMask s x y

/-- The dots of a history class (R160): `h1` and `h2` are the sets printed in the last line and in the one before. -/
def classDots (printed h1 h2 : DotSet) : Fin 3 → DotSet
  | 0 => printed &&& ~~~h1 &&& ~~~h2
  | 1 => printed &&& ~~~h1 &&& h2
  | 2 => printed &&& h1

/-- The temperature factor F (R161). -/
def tempFactor (kt : Nat) (q : Int) : Nat := (clampInt 2048 6144 (4096 - (kt : Int) * (q - 100))).toNat

/-- D: 32 plus the density trim (R161). -/
def densityOf (trim : Int) : Nat := (32 + trim).toNat

/-- The multiplier of a class (R165). -/
def PrintSettings.mult (s : PrintSettings) : Fin 3 → Nat
  | 0 => s.m0
  | 1 => s.m1
  | 2 => s.m2

/-- The strobe time T(h) of a class (R161). -/
def strobeTime (s : PrintSettings) (tb d f : Nat) (h : Fin 3) : Nat :=
  clampNat s.tmin s.tmax ((tb * d * f * s.mult h + 16777216) / 33554432)

/-- The strobes that fire a printed set: one for each class with a dot in it (R162). -/
def strobesOf (printed h1 h2 : DotSet) (time : Fin 3 → Nat) : List Strobe :=
  (List.finRange 3).filterMap fun h =>
    if classDots printed h1 h2 h = 0 then none else some ⟨h, classDots printed h1 h2 h, time h⟩

/-- The longest strobe time fired (R163). -/
def longest (strobes : List Strobe) : Nat := (strobes.map (·.time)).foldl max 0

/-! ## Labels -/

/-- The fields that a label brings from its job (R153, R156). -/
def labelFor (p : Part) (d : Disc) : Option Label := do
  let j ← d.job
  let x ← p.jobs[j]
  let n ← x.defn.labelSlot
  let s ← p.slots[n]
  some ⟨n, s.length, x.defn.trim, 0, 0, 0⟩

/-- A PRINT_WAIT disc has arrived in the tray: the printer starts its label (R156). -/
def startLabel (d : Disc) (p : Part) : Part :=
  modPrinter (fun r =>
    { r with state := .printing, disc := some d.id, status := some .underWay, label := labelFor p d }) p

/-- A FAILED disc has arrived in the tray, or the census found one there (R157). -/
def notPrinted (id : Nat) (p : Part) : Part :=
  modPrinter (fun r =>
    { r with
      state := if r.state = .idle then .doneWait else r.state
      disc := some id
      status := some .notPrinted }) p

/-- The printer becomes PAUSED_RIBBON or PAUSED_HOT, or has aborted a label: PRINTER is set (R173). -/
def pausing (f : Printer → Printer) (p : Part) : Part := raise .printer (modPrinter f p)

/-- The disc in the tray fails, if it is PRINTING (R47, R58). -/
def failPrinting (p : Part) : Part :=
  match p.printer.disc.bind (findDisc p) with
  | some d => if d.state = .printing then failDisc d .printFault p else p
  | none => p

/-- Abort the label, if it is UNDER_WAY; the printer's next state is the caller's (R164). -/
def abortLabel (st : PrinterState) (p : Part) : Part :=
  if p.printer.status = some .underWay then
    failPrinting (pausing (fun r =>
      { r with state := st, status := some .aborted, hot := none, firing := none, gap := none }) p)
  else p

/-- The label is finished (R163): the disc becomes PRINTED and is routed to the accept bin (R56, R58). -/
def finishLabel (p : Part) : Part :=
  let p := modPrinter (fun r => { r with state := .doneWait, status := some .finished }) p
  match p.printer.disc.bind (findDisc p) with
  | some d =>
    if d.state = .printing then
      addOrder .printerToAccept d.id .tray .acceptBin (enterState d .printed (fun x => { x with printed := true }) p)
    else p
  | none => p

/-- The end of a line, once any gap is over: the label is finished, or the next line boundary follows
(R158, step 10). -/
def lineOver (p : Part) : Part :=
  match p.printer.label with
  | some l => if l.cursor = l.length then finishLabel p else p
  | none => p

/-- The tray is freed (R172). -/
def trayFreed (p : Part) : Part :=
  let p := modPrinter (fun r => { r with disc := none, status := none, label := none }) p
  if p.printer.state = .doneWait then
    if p.printer.ribbon = 0 then pausing (fun r => { r with state := .pausedRibbon }) p
    else modPrinter (fun r => { r with state := .idle }) p
  else p

/-! ## Heat -/

/-- HEAD has fallen from CRITICAL to HIGH (R168). -/
def headCooled (p : Part) : Part :=
  if p.printer.state = .pausedHot then
    if p.printer.status = some .underWay then modPrinter (fun r => { r with state := .printing, hot := none }) p
    else if p.printer.ribbon = 0 then pausing (fun r => { r with state := .pausedRibbon }) p
    else if p.printer.disc.isSome then modPrinter (fun r => { r with state := .doneWait }) p
    else modPrinter (fun r => { r with state := .idle }) p
  else p

/-- A periodic HEAD sample, with what the printer does on a fall from CRITICAL (R168, R177, R181). -/
def headPeriodic (v : Int) (p : Part) : Part :=
  let before := p.thermal.head.condition
  let p := sampleHead v p
  if before = .critical && p.thermal.head.condition = .high then headCooled p else p

end Sys2Proof.Machine
end

