-- ==== Sys2Proof/Machine/SettleOps.lean ====
section
/-!
DEFINITION. The conditions that the disc flow controller and the burn set engine judge afresh when the state they read
changes: the printer wait list (R57), the pick conditions (R51), the pick prospects of gathering sessions (R118) and
the MOVE condition (R61).
-/

namespace Sys2Proof.Machine

/-- The declared length of the label slot of the job of the disc at the head of the wait list (R57). -/
def headLabel (p : Part) : Option (Disc × Nat) := do
  let id ← p.flow.waitList.head?
  let d ← findDisc p id
  let j ← d.job
  let x ← p.jobs[j]
  let n ← x.defn.labelSlot
  let s ← p.slots[n]
  some (d, s.length)

/-- The tray is free and the printer is IDLE (R57). -/
def trayReady (p : Part) : Bool := !trayHeld p && !trayReserved p && p.printer.state = .idle

/-- Judge the printer wait list (R57): the head disc is given its order to the tray, or PRINTER is set as the ribbon is
first found too short for its label. -/
def judgeWait (p : Part) : Part :=
  match headLabel p with
  | none => { p with flow := { p.flow with ribbonShort := false } }
  | some (d, length) =>
    if trayReady p then
      if length ≤ p.printer.ribbon then
        addOrder .bayToPrinter d.id d.position .tray
          { p with flow := { p.flow with waitList := p.flow.waitList.drop 1, ribbonShort := false } }
      else raiseIf (!p.flow.ribbonShort) .printer { p with flow := { p.flow with ribbonShort := true } }
    else { p with flow := { p.flow with ribbonShort := false } }

/-- Gathering sessions whose job's pick prospect is false leave gathering (R118); one that ends without members lets a
waiting bay start another. Where one event makes the prospects of several sessions false, the spec gives no order in
which they leave: the model takes the lowest session number first (DESIGN CHOICE, unsafe, log entry 32). -/
def judgeGathering : Nat → Part → Part
  | 0, p => p
  | fuel + 1, p =>
    match (List.finRange 4).find? (prospectLost p) with
    | none => p
    | some n => judgeGathering fuel (leaveAndReap n p)

/-- The most sessions that one step can make leave gathering: four that stand, and one for each bay that waits. -/
def gatheringFuel : Nat := 20

/-- Judge the conditions afresh (R51, R54, R57, R61, R118). -/
def settle (p : Part) : Part := judgeMove (judgeGathering gatheringFuel (judgePick (judgeWait p)))

end Sys2Proof.Machine
end

