-- ==== Sys2Proof/Machine/Jobs.lean ====
section
/-!
DEFINITION. The commands of the job scheduler (chapter 2): JOB DEFINE, AMEND, QUEUE, HALT, RESUME, CANCEL, REMOVE and
STATUS.
-/

namespace Sys2Proof.Machine

/-! ## Definitions (R23 to R26) -/

/-- The definition fields a payload carries, each `none` where it is left out; `label` is `some none` where the command
asks that the label slot become absent (R208). -/
structure DefFields where
  discSlot : Option SlotNum
  media : Option Media
  target : Option Nat
  setSize : Option Nat
  speed : Option Nat
  verify : Option VerifyMode
  gradeLimit : Option Grade
  stallAllowance : Option Nat
  label : Option (Option SlotNum)
  trim : Option Int
  rejectLimit : Option Nat
  deriving DecidableEq, Repr

/-- A slot number that may be left out. -/
def optSlot (b : Byte) : Option (Option SlotNum) :=
  if b = 0xFF#8 then some none else (numbered 8 b).map some

/-- The label slot field: FEh asks JOB AMEND that it become absent (R208). -/
def optLabel (amend : Bool) (b : Byte) : Option (Option (Option SlotNum)) :=
  if amend && b = 0xFE#8 then some (some none) else (optSlot b).map (·.map some)

/-- The 13 bytes of a definition; `none` for a wrong length or a value that R23 and R26 refuse with RANGE. -/
def parseDefn (amend : Bool) : List Byte → Option DefFields
  | [ds, m, t0, t1, ss, sp, v, g, sa, lb, tr, r0, r1] => do
    let discSlot ← optSlot ds
    let media ← optNamed mediaOf m
    let verify ← optNamed verifyOf v
    let grade ← optNamed gradeOf g
    let label ← optLabel amend lb
    some ⟨discSlot, media, optWord t0 t1, optByte ss, optByte sp, verify, grade, optByte sa, label, optTrim tr,
      optWord r0 r1⟩
  | _ => none

/-- The definition with the defaults of R21; slot, media and target must be given. -/
def JobDef.initial (slot : SlotNum) (m : Media) (target : Nat) : JobDef where
  discSlot := slot
  media := m
  target := target
  setSize := 10
  speed := 0
  verify := .digest
  gradeLimit := none
  stallAllowance := 2
  labelSlot := none
  trim := 0
  rejectLimit := 20

/-- The grade limit after a command that leaves verify mode `v` (R25): `old` is the one the record held. -/
def settleGrade (v : VerifyMode) (old given : Option Grade) : Option Grade :=
  match v with
  | .graded => some (given.getD (old.getD .c))
  | _ => none

/-- Write the fields a command carries into a definition, settled as R25 gives. -/
def settleDefn (old : JobDef) (f : DefFields) : Settled JobDef :=
  let target := settleNat 1 9999 old.target f.target
  let setSize := settleNat 1 10 old.setSize f.setSize
  let speed := settleNat 0 48 old.speed f.speed
  let stalls := settleNat 0 15 old.stallAllowance f.stallAllowance
  let trim := settleInt (-8) 7 old.trim f.trim
  let reject := settleNat 0 255 old.rejectLimit f.rejectLimit
  let verify := f.verify.getD old.verify
  { value :=
      { discSlot := f.discSlot.getD old.discSlot
        media := f.media.getD old.media
        target := target.value
        setSize := setSize.value
        speed := speed.value
        verify := verify
        gradeLimit := settleGrade verify old.gradeLimit f.gradeLimit
        stallAllowance := stalls.value
        labelSlot := f.label.getD old.labelSlot
        trim := trim.value
        rejectLimit := reject.value }
    clamped := target.clamped || setSize.clamped || speed.clamped || stalls.clamped || trim.clamped || reject.clamped }

/-- Create a DRAFT job from the fields of a definition whose slot, media and target are given (R23). -/
def draftJob (slot : SlotNum) (m : Media) (target : Nat) (f : DefFields) (p : Part) : Response × Part :=
  match lowest p.jobs Option.isNone with
  | none => refuse .tableFull p
  | some j =>
    let d := settleDefn (JobDef.initial slot m target) f
    (.settled d.clamped [byte j.val], raise .job (setJob j (some ⟨.draft, d.value, 0, 0, 0, none⟩) p))

/-- JOB DEFINE (R23). -/
def jobDefineBody (payload : List Byte) (p : Part) : Response × Part :=
  match parseDefn false payload with
  | none => rangeError p
  | some f =>
    match f.discSlot, f.media, f.target with
    | some slot, some m, some t => draftJob slot m t f p
    | _, _, _ => rangeError p

/-- R23. -/
def execJobDefine (l : Link) (payload : List Byte) (fill : Nat) (s : State) : Result :=
  linkCommand l payload fill (jobDefineBody payload) s

/-- A command that names a job by one byte (R24). -/
def onJob (b : Byte) (f : JobNum → Job → Part → Response × Part) (p : Part) : Response × Part :=
  match numbered 12 b with
  | none => rangeError p
  | some j =>
    match p.jobs[j] with
    | none => refuse .state p
    | some x => f j x p

/-- A command whose whole payload is a job number. -/
def onJobByte (payload : List Byte) (f : JobNum → Job → Part → Response × Part) (p : Part) : Response × Part :=
  match payload with
  | [b] => onJob b f p
  | _ => rangeError p

/-- JOB AMEND of a job, with the bytes of the definition (R26). -/
def amendJob (bytes : List Byte) (j : JobNum) (x : Job) (p : Part) : Response × Part :=
  if x.state ≠ .draft then refuse .state p
  else match parseDefn true bytes with
    | none => rangeError p
    | some f =>
      let d := settleDefn x.defn f
      (.settled d.clamped [], setJob j (some { x with defn := d.value }) p)

/-- JOB AMEND: job 1, definition 13 (R26). -/
def jobAmendBody (payload : List Byte) (p : Part) : Response × Part :=
  match payload with
  | b :: bytes => if bytes.length = 13 then onJob b (amendJob bytes) p else rangeError p
  | [] => rangeError p

/-- R26. -/
def execJobAmend (l : Link) (payload : List Byte) (fill : Nat) (s : State) : Result :=
  linkCommand l payload fill (jobAmendBody payload) s

/-! ## Queuing (R27) -/

/-- The capacity of a media in sectors (R27). -/
def capacity : Media → Nat
  | .cd => 360000
  | .dvd => 2295104
  | .bd => 12219392

/-- The image of the job's disc slot fits its media (R27, check 4). -/
def imageFits (d : JobDef) (p : Part) : Bool :=
  match p.slots[d.discSlot] with
  | some s => s.length ≤ capacity d.media
  | none => false

/-- The job's label slot, if it has one, is a LABEL slot in FROZEN (R27, check 3). -/
def labelFrozen (d : JobDef) (p : Part) : Bool :=
  match d.labelSlot with
  | some n => frozenOf p .label n
  | none => true

/-- A queued job takes its references (R27, R40). -/
def takeRefs (d : JobDef) (p : Part) : Part :=
  match d.labelSlot with
  | some n => takeRef n (takeRef d.discSlot p)
  | none => takeRef d.discSlot p

/-- The response of a command that carries the job's resulting state. -/
def jobStateResponse (j : JobNum) (p : Part) : Response × Part :=
  (.done [match p.jobs[j] with
    | some x => byte x.state.code
    | none => 0], p)

/-- JOB QUEUE of a job (R27). -/
def queueJob (j : JobNum) (x : Job) (p : Part) : Response × Part :=
  if x.state ≠ .draft then refuse .state p
  else if !frozenOf p .disc x.defn.discSlot || !labelFrozen x.defn p then refuse .notFrozen p
  else if !imageFits x.defn p then rangeError p
  else
    let p := setJobState j x .queued none (takeRefs x.defn p)
    let p := admitJobs { p with runList := p.runList ++ [j] }
    ((jobStateResponse j p).1, settle p)

/-- R27. -/
def execJobQueue (l : Link) (payload : List Byte) (fill : Nat) (s : State) : Result :=
  linkCommand l payload fill (onJobByte payload queueJob) s

/-! ## Halting and resuming (R34, R35) -/

/-- JOB HALT of a job (R34). -/
def haltJob (j : JobNum) (x : Job) (p : Part) : Response × Part :=
  match x.state with
  | .running =>
    let p := haltRunning j x .operator p
    ((jobStateResponse j p).1, settle p)
  | .queued =>
    let p := setJobState j x .halted (some .operator) p
    ((jobStateResponse j p).1, settle p)
  | _ => refuse .state p

/-- R34. -/
def execJobHalt (l : Link) (payload : List Byte) (fill : Nat) (s : State) : Result :=
  linkCommand l payload fill (onJobByte payload haltJob) s

/-- JOB RESUME of a job (R35). -/
def resumeJob (j : JobNum) (x : Job) (p : Part) : Response × Part :=
  match x.state with
  | .halting =>
    let p := setJobState j x .running none p
    ((jobStateResponse j p).1, settle p)
  | .halted =>
    let p := admitJobs (setJobState j x .queued none p)
    ((jobStateResponse j p).1, settle p)
  | _ => refuse .state p

/-- R35. -/
def execJobResume (l : Link) (payload : List Byte) (fill : Nat) (s : State) : Result :=
  linkCommand l payload fill (onJobByte payload resumeJob) s

/-! ## Cancelling (R36, R37) -/

/-- A cancelled disc's bay leaves the waiting bays and its session, with a CLEAR past GATHERING (R133). -/
def cancelInEngine (b : BayNum) (p : Part) : Part :=
  let p := { p with engine := { p.engine with waiting := p.engine.waiting.filter (· ≠ b) } }
  match sessionOf p b with
  | none => p
  | some n =>
    let past := match p.engine.sessions[n] with
      | some s => s.state != .gathering
      | none => false
    askClear past b (removeMember n b p)

/-- The readback place that reads bay `b`. -/
def placeOf (p : Part) (b : BayNum) : Option PlaceNum :=
  lowest p.verifier.places fun r => match r with
    | some r => r.bay = b
    | none => false

/-- A cancelled disc's bay leaves the verifier, with a CLEAR if its READBACK was sent (R150); the next readbacks are
started once every disc has been dealt with (log entry 7). A READBACK that is on the bus as the cancel is taken is not
yet sent: it completes, and no CLEAR is asked for (DEDUCED, unsafe, log entry 30). -/
def cancelInVerifier (b : BayNum) (p : Part) : Part :=
  let p := { p with verifier := { p.verifier with queue := p.verifier.queue.filter (· ≠ b) } }
  match placeOf p b with
  | none => p
  | some k =>
    match p.verifier.places[k] with
    | some r => setPlace k none (askClear r.sent b (busForgetPlace k p))
    | none => p

/-- A cancelled PRINT_WAIT disc (R69): in the wait list, or with an order to the printer, unissued or issued. -/
def cancelPrintWait (d : Disc) (p : Part) : Part :=
  match orderOf p d.id with
  | none =>
    failDisc d .cancelled { p with flow := { p.flow with waitList := p.flow.waitList.filter (· ≠ d.id) } }
  | some o => if isIssued p o then markFailed d .cancelled p else failDisc d .cancelled (dropOrder o p)

/-- What a cancel does to one disc of the job (R37, R69); an unissued pick has been withdrawn before. -/
def cancelDisc (d : Disc) (p : Part) : Part :=
  match d.position, d.state with
  | .bay b, .loaded => cancelInEngine b (failDisc d .cancelled p)
  | .bay b, .burning => cancelInEngine b (failDisc d .cancelled p)
  | .bay _, .burned => failDisc d .cancelled p
  | .bay b, .verifyWait => cancelInVerifier b (failDisc d .cancelled p)
  | .bay b, .verifying => cancelInVerifier b (failDisc d .cancelled p)
  | .bay _, .printWait => cancelPrintWait d p
  | _, _ => p

/-- The discs of job `j`, in order of disc id. -/
def discsOf (p : Part) (j : JobNum) : List Disc := p.flow.discs.filter fun d => d.job = some j

/-- End the sessions that have no members, and place the waiting bays (R131). Where a cancel has emptied several, they end
in order of session number, the waiting bays being placed between them (DESIGN CHOICE, unsafe, log entry 28). -/
def reapAll (p : Part) : Part := (List.finRange 4).foldl (fun p n => reap n p) p

/-- Cancel a RUNNING or HALTING job (R36, R37). -/
def cancelAdmitted (j : JobNum) (x : Job) (p : Part) : Part :=
  let p := withdrawPickOf j (setJobState j x .cancelling none p)
  let p := (discsOf p j).foldl (fun p d => cancelDisc d p) p
  endDrain j (startReadbacks (reapAll p))

/-- JOB CANCEL of a job (R36). -/
def cancelJob (j : JobNum) (x : Job) (p : Part) : Response × Part :=
  match x.state with
  | .draft => jobStateResponse j (setJobState j x .cancelled none p)
  | .queued =>
    let p := finishJob j x .cancelled p
    ((jobStateResponse j p).1, settle p)
  | .halted =>
    let p := finishJob j x .cancelled p
    ((jobStateResponse j p).1, settle p)
  | .running =>
    let p := cancelAdmitted j x p
    ((jobStateResponse j p).1, settle p)
  | .halting =>
    let p := cancelAdmitted j x p
    ((jobStateResponse j p).1, settle p)
  | _ => refuse .state p

/-- R36. -/
def execJobCancel (l : Link) (payload : List Byte) (fill : Nat) (s : State) : Result :=
  linkCommand l payload fill (onJobByte payload cancelJob) s

/-! ## Removing and reading (R39, R41) -/

/-- The states in which JOB REMOVE is taken (R39). -/
def JobState.removable : JobState → Bool
  | .draft => true
  | .done => true
  | .cancelled => true
  | _ => false

/-- JOB REMOVE of a job (R39). -/
def removeJob (j : JobNum) (x : Job) (p : Part) : Response × Part :=
  if x.state.removable then (.plain, raise .job (setJob j none p)) else refuse .state p

/-- R39. -/
def execJobRemove (l : Link) (payload : List Byte) (fill : Nat) (s : State) : Result :=
  linkCommand l payload fill (onJobByte payload removeJob) s

/-- JOB STATUS of a job (R41). -/
def statusOfJob (j : JobNum) (x : Job) (p : Part) : Response × Part := (.done (jobRecord p j x), p)

/-- R41. -/
def execJobStatus (l : Link) (payload : List Byte) (fill : Nat) (s : State) : Result :=
  linkCommand l payload fill (onJobByte payload statusOfJob) s

end Sys2Proof.Machine
end

