-- ==== Sys2Proof/Machine/Moves.lean ====
section
/-!
DEFINITION. The commands of the disc flow controller (chapter 3): MOVE NEXT, MOVE DONE, the three kinds of MOVE FAILED,
FLOW RESUME, SPINDLE REPORT, BIN REPORT and DISC READ.
-/

namespace Sys2Proof.Machine

/-- MOVE NEXT (R61). -/
def nextMove (p : Part) : Response × Part :=
  match p.flow.issued with
  | some o => (.done (moveBytes 2 (some o) p.flow.held), p)
  | none =>
    match firstEligible p with
    | some o =>
      (.done (moveBytes 1 (some o) p.flow.held),
        { p with flow := { p.flow with issued := some o, moveReady := false } })
    | none => (.done (moveBytes 0 none p.flow.held), p)

/-- A command without a payload. -/
def noPayload (payload : List Byte) (f : Part → Response × Part) (p : Part) : Response × Part :=
  match payload with
  | [] => f p
  | _ => rangeError p

/-- R61. -/
def execMoveNext (l : Link) (payload : List Byte) (fill : Nat) (s : State) : Result :=
  linkCommand l payload fill (noPayload payload nextMove) s

/-! ## Moves reported done (R62 to R64) -/

/-- The job is CANCELLING. -/
def isCancelling (p : Part) (j : JobNum) : Bool :=
  match p.jobs[j] with
  | some x => x.state = .cancelling
  | none => false

/-- The disc that a pick has brought into its bay is LOADED there (R62). -/
def loadDisc (id : Nat) (b : BayNum) (p : Part) : Part :=
  modBay b (fun x => { x with state := x.enter .loaded, disc := some id })
    (modDisc id (fun d =>
      { d with state := .loaded, position := .bay b, destination := none, loadBay := some b }) p)

/-- After the pick is counted: the disc is failed if its job is CANCELLING, otherwise told to the burn set engine
(R62). -/
def afterPick (id : Nat) (b : BayNum) (j : JobNum) (p : Part) : Part :=
  if isCancelling p j then
    match findDisc p id with
    | some d => failDisc d .cancelled p
    | none => p
  else placeLoaded b j p

/-- A PICK is done. -/
def pickDone (d : Disc) (b : BayNum) (p : Part) : Part :=
  let p := report d.job ⟨1, 0, 0⟩ (loadDisc d.id b p)
  match d.job with
  | some j => afterPick d.id b j p
  | none => p

/-- A disc has arrived in the tray (R63): it is printed if it is PRINT_WAIT, and goes on to the reject bin if it is
FAILED. -/
def trayDone (d : Disc) (source : Position) (p : Part) : Part :=
  let p := leavePlace source (modDisc d.id (fun x => { x with position := .tray, destination := none }) p)
  match d.state with
  | .printWait => startLabel d (modDisc d.id (fun x => { x with state := .printing }) p)
  | .failed => notPrinted d.id (addOrder .printerToReject d.id .tray .rejectBin p)
  | _ => p

/-- A disc leaves the place `source` for good: its bay or the tray is freed (R64, R66). -/
def leaveFor (source : Position) (p : Part) : Part :=
  match source with
  | .tray => trayFreed p
  | pos => leavePlace pos p

/-- A delivery (R64). -/
def delivered (d : Disc) (source : Position) (outcome : DiscOutcome) (p : Part) : Part :=
  let p := appendResult (entryFor d outcome d.reason) (leaveFor source (removeDisc d.id p))
  match outcome with
  | .accepted => report d.job ⟨0, 1, 0⟩ (raise .delivered p)
  | .rejected => report d.job ⟨0, 0, 1⟩ (raise .rejected p)

/-- What a completed order does, by where it leads (R62 to R64). -/
def moveArrives (o : Order) (d : Disc) (p : Part) : Part :=
  match o.target with
  | .bay b => pickDone d b p
  | .tray => trayDone d o.source p
  | .acceptBin => delivered d o.source .accepted p
  | .rejectBin => delivered d o.source .rejected p
  | .spindle _ => p

/-- The issued order is completed: it leaves the queue and the issued-move slot (R62). -/
def completeMove (o : Order) (p : Part) : Part :=
  let q := judgeMove (dropOrder o p)
  match findDisc p o.disc with
  | some d => moveArrives o d q
  | none => q

/-- MOVE DONE of a disc and a kind (R62). -/
def moveDone (id : Nat) (k : MoveKind) (p : Part) : Response × Part :=
  match p.flow.issued with
  | some o => if o.disc = id ∧ o.kind = k then (.plain, settle (completeMove o p)) else refuse .staleMove p
  | none => refuse .staleMove p

/-- MOVE DONE: disc id 2, move kind 1. -/
def moveDoneBody (payload : List Byte) (p : Part) : Response × Part :=
  match payload with
  | [i0, i1, k] =>
    match discIdOf i0 i1, moveKindOf k.toNat with
    | some id, some k => moveDone id k p
    | _, _ => rangeError p
  | _ => rangeError p

/-- R62. -/
def execMoveDone (l : Link) (payload : List Byte) (fill : Nat) (s : State) : Result :=
  linkCommand l payload fill (moveDoneBody payload) s

/-! ## Moves reported failed (R65 to R67) -/

/-- The checks of a MOVE FAILED (R65), and then `f` on the issued order; `pickOnly` is the check of NO_DISC. -/
def moveFailedBody (payload : List Byte) (pickOnly : Bool) (f : Order → Part → Part) (p : Part) : Response × Part :=
  match payload with
  | [i0, i1, r] =>
    match discIdOf i0 i1 with
    | some id =>
      if 2 < r.toNat then rangeError p
      else match p.flow.issued with
        | some o =>
          if o.disc ≠ id then refuse .staleMove p
          else if pickOnly && o.kind ≠ .pick then refuse .state p
          else (.plain, settle (f o p))
        | none => refuse .staleMove p
    | none => rangeError p
  | _ => rangeError p

/-- The spindle an order is drawn from becomes EMPTY. -/
def emptySpindle (pos : Position) (p : Part) : Part :=
  match pos with
  | .spindle n => { p with flow := { p.flow with spindles := put p.flow.spindles n none } }
  | _ => p

/-- NO_DISC on a PICK: the spindle was bare (R65). -/
def spindleBare (o : Order) (p : Part) : Part :=
  let job := jobOfOrder p o
  report job ⟨0, 0, 0⟩ (raise .blanks (withdraw o (emptySpindle o.source p)))

/-- R65. -/
def execMoveFailedNoDisc (l : Link) (payload : List Byte) (fill : Nat) (s : State) : Result :=
  linkCommand l payload fill (moveFailedBody payload true spindleBare) s

/-- The places that a lost disc's order held are freed (R66). -/
def freePlaces (o : Order) (p : Part) : Part :=
  match o.kind with
  | .pick => leavePlace o.target p
  | _ => leaveFor o.source p

/-- DROPPED: the disc was lost on the arm (R66). -/
def discLost (o : Order) (p : Part) : Part :=
  let q := judgeMove (dropOrder o p)
  match findDisc p o.disc with
  | some d =>
    let q := freePlaces o (removeDisc d.id q)
    let q := raise .rejected (appendResult (entryFor d .rejected (some (d.reason.getD .dropped))) q)
    report d.job (if o.kind = .pick then ⟨1, 0, 1⟩ else ⟨0, 0, 1⟩) q
  | none => q

/-- R66. -/
def execMoveFailedDropped (l : Link) (payload : List Byte) (fill : Nat) (s : State) : Result :=
  linkCommand l payload fill (moveFailedBody payload false discLost) s

/-- JAM: the flow becomes HELD and the order stays issued (R67). -/
def armJammed (_ : Order) (p : Part) : Part := raise .flowHeld { p with flow := { p.flow with held := true } }

/-- R67. -/
def execMoveFailedJam (l : Link) (payload : List Byte) (fill : Nat) (s : State) : Result :=
  linkCommand l payload fill (moveFailedBody payload false armJammed) s

/-! ## Flow, spindles and bins (R48 to R50) -/

/-- FLOW RESUME (R50). -/
def resumeFlow (p : Part) : Response × Part :=
  if p.flow.held then (.plain, settle { p with flow := { p.flow with held := false } }) else refuse .state p

/-- R50. -/
def execFlowResume (l : Link) (payload : List Byte) (fill : Nat) (s : State) : Result :=
  linkCommand l payload fill (noPayload payload resumeFlow) s

/-- The media of the job whose disc an order moves. -/
def mediaOfOrder (p : Part) (o : Order) : Option Media :=
  (jobOfOrder p o).bind fun j => (p.jobs[j]).map (·.defn.media)

/-- The unissued pick that a report on spindle `n` takes the blanks away from (R48). -/
def strandedPick (n : SpindleNum) (p : Part) : Option Order :=
  match pickOrder p with
  | some o =>
    if !isIssued p o && o.source = .spindle n && p.flow.spindles[n] ≠ mediaOfOrder p o then some o else none
  | none => none

/-- A spindle report that is taken (R48): `m` is the media it is LOADED with. -/
def reportSpindle (n : SpindleNum) (m : Option Media) (p : Part) : Response × Part :=
  let p := { p with flow := { p.flow with spindles := put p.flow.spindles n m } }
  match strandedPick n p with
  | some o => (.plain, settle (withdrawAndReport o p))
  | none => (.plain, settle p)

/-- SPINDLE REPORT: spindle 1, spindle state 1, media 1 (R48). -/
def spindleReportBody (payload : List Byte) (p : Part) : Response × Part :=
  match payload with
  | [n, st, m] =>
    match numbered 2 n with
    | none => rangeError p
    | some n =>
      if st = 0#8 then reportSpindle n none p
      else if st = 1#8 then
        match mediaOf m.toNat with
        | some m => reportSpindle n (some m) p
        | none => rangeError p
      else rangeError p
  | _ => rangeError p

/-- R48. -/
def execSpindleReport (l : Link) (payload : List Byte) (fill : Nat) (s : State) : Result :=
  linkCommand l payload fill (spindleReportBody payload) s

/-- A bin report that is taken (R49). -/
def reportBin (accept full : Bool) (p : Part) : Response × Part :=
  let p :=
    if accept then { p with flow := { p.flow with acceptFull := full } }
    else { p with flow := { p.flow with rejectFull := full } }
  (.plain, settle (raiseIf full .bin p))

/-- BIN REPORT: bin 1, bin state 1 (R49). -/
def binReportBody (payload : List Byte) (p : Part) : Response × Part :=
  match payload with
  | [b, st] => if b.toNat ≤ 1 ∧ st.toNat ≤ 1 then reportBin (b = 0#8) (st = 1#8) p else rangeError p
  | _ => rangeError p

/-- R49. -/
def execBinReport (l : Link) (payload : List Byte) (fill : Nat) (s : State) : Result :=
  linkCommand l payload fill (binReportBody payload) s

/-! ## Reading a disc record (R71) -/

/-- DISC READ: disc id 2 (R71). -/
def discReadBody (payload : List Byte) (p : Part) : Response × Part :=
  match payload with
  | [i0, i1] =>
    match discIdOf i0 i1 with
    | some id =>
      match findDisc p id with
      | some d => (.done (discRecord p d), p)
      | none => refuse .noDisc p
    | none => rangeError p
  | _ => rangeError p

/-- R71. -/
def execDiscRead (l : Link) (payload : List Byte) (fill : Nat) (s : State) : Result :=
  linkCommand l payload fill (discReadBody payload) s

end Sys2Proof.Machine
end

