-- ==== Sys2Proof/Machine/Bays.lean ====
section
/-!
DEFINITION. The commands and timers of the bay manager (chapter 4): BAY ENABLE, BAY DISABLE, BAY STATUS, the
housekeeping timer and the probe timer.
-/

namespace Sys2Proof.Machine

/-- A command that names a bay by one byte. -/
def onBay (payload : List Byte) (f : BayNum → Part → Response × Part) (p : Part) : Response × Part :=
  match payload with
  | [b] =>
    match numbered 10 b with
    | some b => f b p
    | none => rangeError p
  | _ => rangeError p

/-- BAY ENABLE of bay `b` (R85). -/
def enableBay (b : BayNum) (p : Part) : Response × Part :=
  let was := p.bays[b].enabled
  (.plain, settle (raiseIf (!was) .bay
    (modBay b (fun x => { x with enabled := true, disablePending := false, failures := 0 }) p)))

/-- R85. -/
def execBayEnable (l : Link) (payload : List Byte) (fill : Nat) (s : State) : Result :=
  linkCommand l payload fill (onBay payload enableBay) s

/-- The bay records a BAY DISABLE leaves (R86). -/
def Bay.disable (x : Bay) : Bay :=
  if x.enabled then
    if x.state = .empty ∨ x.state = .offline then { x with enabled := false } else { x with disablePending := true }
  else x

/-- BAY DISABLE of bay `b` (R86). -/
def disableBay (b : BayNum) (p : Part) : Response × Part :=
  let x := p.bays[b].disable
  (.done (yes x.enabled ++ yes x.disablePending),
    settle (raiseIf (p.bays[b].enabled && !x.enabled) .bay (modBay b Bay.disable p)))

/-- R86. -/
def execBayDisable (l : Link) (payload : List Byte) (fill : Nat) (s : State) : Result :=
  linkCommand l payload fill (onBay payload disableBay) s

/-- BAY STATUS of bay `b` (R89). -/
def statusOfBay (b : BayNum) (p : Part) : Response × Part := (.done (bayRecord p b), p)

/-- R89. -/
def execBayStatus (l : Link) (payload : List Byte) (fill : Nat) (s : State) : Result :=
  linkCommand l payload fill (onBay payload statusOfBay) s

/-- The housekeeping timer of bay `b` expires (R79); a timer that does not run does not expire (log entry 8). -/
def housekeepingExpires (b : BayNum) (p : Part) : Part :=
  if p.bays[b].housekeeping.isSome then
    ask (.statusRead b false) (modBay b (fun x => { x with housekeeping := none }) p)
  else p

/-- R79. -/
def execHousekeepingTimerExpiry (b : BayNum) (s : State) : Result := event (housekeepingExpires b) s

/-- The probe timer of bay `b` expires (R80). -/
def probeExpires (b : BayNum) (p : Part) : Part :=
  if p.bays[b].probe.isSome then
    ask (.statusRead b false) (modBay b (fun x => { x with probe := none }) p)
  else p

/-- R80. -/
def execProbeTimerExpiry (b : BayNum) (s : State) : Result := event (probeExpires b) s

end Sys2Proof.Machine
end

