-- ==== Sys2Proof/Machine/BusWork.lean ====
section
/-!
DEFINITION. The commands of the bay bus controller (chapter 5): service rounds, grants and what ends each transfer.
-/

namespace Sys2Proof.Machine

/-! ## Beginning a turn -/

/-- A service round may begin (R105): the bus is at a block boundary or idle, an item waits, and no grant is owed for
the round before. -/
def roundReady (p : Part) : Bool :=
  p.bus.turn = .none && !p.bus.list.isEmpty && !(p.bus.afterRound && anyEligible p)

/-- Begin a service round with the items of the list; it ends a pause (R105, R110). -/
def beginRound (p : Part) : Part :=
  if roundReady p then
    nextItem p.bus.list { p with bus := { p.bus with list := [], pause := none, fruitless := [] } }
  else p

/-- R105. -/
def execServiceRound (s : State) : Result := event beginRound s

/-- The arbiter may look for a grant (R105, R110). -/
def grantReady (p : Part) : Bool :=
  p.bus.turn = .none && p.bus.pause.isNone && (p.bus.list.isEmpty || p.bus.afterRound)

/-- The entry becomes the grant position (R108). -/
def takePosition (e : RingEntry) (p : Part) : Part :=
  { p with bus := { p.bus with position := some e, afterRound := false } }

/-- Set the turn of the bus. -/
def setTurn (t : Turn) (p : Part) : Part := { p with bus := { p.bus with turn := t } }

/-- A grant of broadcast session `n` (R108): it yields on READY low; otherwise block (cursor) of its slot is offered. -/
def grantBroadcast (n : SessionNum) (x : Session) (ready : Bool) (s : State) : Result :=
  let p := address (.listeners (listenersOf x)) (takePosition (.broadcast n) s.part)
  if !ready then .next { s with part := endFruitless (.broadcast n) (sessionYielded n p) }
  else match p.slots[x.slot] with
    | none => .next { s with part := endFruitless (.broadcast n) (sessionYielded n p) }
    | some sl =>
      if !sl.inMemory then .fault .outsideImageMemory
      else .next { s with part := setTurn (.block n true x.cursor (imageBlock s.mem sl x.cursor)) p }

/-- A grant of the readback session at place `k` (R109): its bay talks. Where the bay is the talker in force already, no
TALK is sent (R92), and the turn is counted from the grant (DEDUCED, unsafe, log entry 27). -/
def grantReadback (k : PlaceNum) (r : Readback) (s : State) : Result :=
  .next { s with part := setTurn (.talk k true) (address (.talker r.bay) (takePosition (.readback k) s.part)) }

/-- Make the grant of entry `e`. -/
def makeGrant (e : RingEntry) (ready : Bool) (s : State) : Result :=
  match e with
  | .broadcast n =>
    match s.part.engine.sessions[n] with
    | some x => grantBroadcast n x ready s
    | none => .next s
  | .readback k =>
    match s.part.verifier.places[k] with
    | some r => grantReadback k r s
    | none => .next s

/-- GRANT (R107 to R109): `ready` is the READY line once the listeners are addressed. -/
def execGrant (ready : Bool) (s : State) : Result :=
  if s.part.held || !grantReady s.part then .next s
  else match nextGrant s.part with
    | some e => makeGrant e ready s
    | none => .next s

/-- The 1 ms pause ends (R110). -/
def pauseEnds (p : Part) : Part := { p with bus := { p.bus with pause := none } }

/-- R110. -/
def execGrantPauseExpiry (s : State) : Result := event pauseEnds s

/-! ## Bus commands (R93, R99 to R101, R126) -/

/-- The lanes that read true in a SERVICE POLL: lanes 0 to 9 (R100). -/
def flaggedBays (lanes : Lanes) : List BayNum := (List.finRange 10).filter fun b => lanes.getLsbD b.val

/-- The result of a SERVICE POLL (R100, R101). -/
def pollResult (lanes : Lanes) (attn : Bool) (p : Part) : Part :=
  let bays := flaggedBays lanes
  if bays.isEmpty then
    if attn then { p with bus := { p.bus with holdOff := some Config.holdOffMs } } else p
  else
    let other := fun i : Item => !(bays.any fun b => i.reads b)
    { p with bus := { p.bus with
        list := p.bus.list.filter other
        turn := .round none ((bays.map fun b => .statusRead b true) ++ p.bus.turn.rest.filter other) } }

/-- What the completion of a bus command does, besides ending the item (R93). -/
def commandEffect (it : Item) (live : Bool) (lanes : Lanes) (attn : Bool) (p : Part) : Part :=
  match it with
  | .clear _ => { p with bus := { p.bus with addressing := .none } }
  | .clearAll => { p with bus := { p.bus with addressing := .none } }
  | .go n => if live then goSent n p else p
  | .readyPoll n => if live then laggardResult n lanes p else p
  | .servicePoll => pollResult lanes attn p
  | _ => p

/-- A bus command of the round completes, and the part releases CMD and VALID (R93). A STATUS READ that has been sent
leaves the part listening for the record, which ends by rows of its own (R102). -/
def commandDone (lanes : Lanes) (attn : Bool) (p : Part) : Part :=
  match p.bus.turn with
  | .round (some ⟨.statusRead b polled, live, .command _⟩) rest =>
    setTurn (.round (some ⟨.statusRead b polled, live, .record⟩) rest) p
  | .round (some ⟨it, live, .command _⟩) _ => goOn (settle (commandEffect it live lanes attn (itemOff p)))
  | _ => p

/-- TAKEN rises on a bus command (R93). -/
def execBusCommandTaken (lanes : Lanes) (attn : Bool) (s : State) : Result :=
  event (commandDone lanes attn) { s with pins := { s.pins with attn := attn } }

/-- 1 ms has passed since VALID was asserted: the command is complete and is not repeated (R93). -/
def execBusCommandLimit (lanes : Lanes) (attn : Bool) (s : State) : Result :=
  event (commandDone lanes attn) { s with pins := { s.pins with attn := attn } }

/-! ## Messages (R97) -/

/-- The owner of a message is told that it has been sent: the prepare deadline (R119), the close deadline (R127) or the
readback (R139) starts. -/
def messageSent (it : Item) (p : Part) : Part :=
  match it with
  | .prepare n =>
    modSession n (fun x => if x.state = .preparing then { x with prepare := some Config.prepareMs } else x) p
  | .close n =>
    modSession n (fun x => if x.state = .closing then { x with close := some Config.closeMs } else x) p
  | .readback k => readbackSent k p
  | _ => p

/-- A message of the round is complete. -/
def messageDone (p : Part) : Part :=
  match p.bus.turn with
  | .round (some ⟨_, _, .command _⟩) _ => p
  | .round (some ⟨_, _, .record⟩) _ => p
  | .round (some ⟨it, live, _⟩) _ => goOn (if live then messageSent it (itemOff p) else itemOff p)
  | _ => p

/-- TAKEN rises on a PREPARE, CLOSE or READBACK message (R97). -/
def execMessageTaken (s : State) : Result := event messageDone s

/-- 100 ms have passed since VALID was asserted: the message is complete and is not repeated (R97). -/
def execMessageLimit (s : State) : Result := event messageDone s

/-! ## Blocks (R96, R98, R108, R109) -/

/-- The block on offer is accepted (R96, R108); the outcome is told to no one once the session has ended. -/
def blockAccepted (p : Part) : Part :=
  match p.bus.turn with
  | .block n live _ _ => if live then sessionAccepted n (endMoved p) else endMoved p
  | _ => p

/-- R96. -/
def execBlockAccepted (s : State) : Result := event blockAccepted s

/-- The block on offer is abandoned at its 100 ms limit (R96, R108). -/
def blockAbandoned (p : Part) : Part :=
  match p.bus.turn with
  | .block n live _ _ => if live then endFruitless (.broadcast n) (sessionYielded n p) else setTurn .none p
  | _ => p

/-- R96. -/
def execBlockAbandoned (s : State) : Result := event blockAbandoned s

/-- A readback block and its trailer are taken from the talker (R109). -/
def readbackTaken (h : HeldBlock) (p : Part) : Part :=
  match p.bus.turn with
  | .talk k live => if live then handBlock k h (endMoved p) else endMoved p
  | _ => p

/-- R95, R98, R109: a readback block is 65,536 bytes; less is no block. -/
def execReadbackBlockTaken (data : List Byte) (trailer : Byte) (s : State) : Result :=
  event (fun p => if data.length = Config.blockBytes then readbackTaken ⟨data, trailer⟩ p else p) s

/-- A readback turn ends empty (R98, R109). -/
def turnEmpty (p : Part) : Part :=
  match p.bus.turn with
  | .talk k live => if live then endFruitless (.readback k) p else setTurn .none p
  | _ => p

/-- R98. -/
def execReadbackTurnEmpty (s : State) : Result := event turnEmpty s

/-! ## Status reads (R102) -/

/-- A status read of bay `b` has ended: the bay talks still (R102), and the item is over. -/
def readOver (b : BayNum) (p : Part) : Part :=
  itemOff { p with bus := { p.bus with addressing := .talker b } }

/-- The round goes on after a status read; the end of the last read of a poll judges the poll wanted condition
(R100, R101). -/
def afterRead (polled attn : Bool) (p : Part) : Part :=
  goOn (if polled && !p.bus.turn.rest.any Item.polledRead then judgePoll attn p else p)

/-- A disc that the record shows in an EMPTY bay is an orphan (R70, R82). -/
def judgeDiscPresent (b : BayNum) (r : StatusRecord) (p : Part) : Part :=
  if r.discPresent && p.bays[b].state = .empty then orphanInBay b p else p

/-- A status read that has been sent is answered (R78, R102); the verifier takes no action on a record (R145). -/
def readAnswered (r : StatusRecord) (attn : Bool) (p : Part) : Part :=
  match p.bus.turn with
  | .round (some ⟨.statusRead b polled, _, .record⟩) _ =>
    afterRead polled attn (settle (engineRecord b r (judgeDiscPresent b r (takeRecord b r (readOver b p)))))
  | _ => p

/-- R102. -/
def execStatusReadAnswered (r : StatusRecord) (attn : Bool) (s : State) : Result :=
  event (readAnswered r attn) { s with pins := { s.pins with attn := attn } }

/-- A status read that has been sent goes unanswered (R80, R81, R102). -/
def readUnanswered (attn : Bool) (p : Part) : Part :=
  match p.bus.turn with
  | .round (some ⟨.statusRead b polled, _, .record⟩) _ =>
    afterRead polled attn (settle (judgeSilence b (readOver b p)))
  | _ => p

/-- R102. -/
def execStatusReadUnanswered (attn : Bool) (s : State) : Result :=
  event (readUnanswered attn) { s with pins := { s.pins with attn := attn } }

/-! ## Attention (R100) -/

/-- ATTN rises (R100). -/
def execAttnRise (s : State) : Result := event (judgePoll true) { s with pins := { s.pins with attn := true } }

/-- The attention hold-off expires (R100). -/
def holdOffEnds (attn : Bool) (p : Part) : Part :=
  if p.bus.holdOff.isSome then judgePoll attn { p with bus := { p.bus with holdOff := none } } else p

/-- R100. -/
def execAttentionHoldOffExpiry (attn : Bool) (s : State) : Result :=
  event (holdOffEnds attn) { s with pins := { s.pins with attn := attn } }

end Sys2Proof.Machine
end

