-- ==== Sys2Proof/Machine/Burns.lean ====
section
/-!
DEFINITION. The commands and timers of the burn set engine (chapter 6).
-/

namespace Sys2Proof.Machine

/-- The burn settings a command leaves (R115). -/
def settleBurn (old : BurnSettings) (g p st : Option Nat) : Settled BurnSettings :=
  let gather := settleNat 0 600 old.gatherTime g
  let prime := settleNat 4 64 old.primeSetting p
  let stall := settleNat 1 40 old.stallTime st
  ⟨⟨gather.value, prime.value, stall.value⟩, gather.clamped || prime.clamped || stall.clamped⟩

/-- Replace the burn settings. -/
def setBurn (b : BurnSettings) (p : Part) : Part := { p with engine := { p.engine with settings := b } }

/-- BURN SETTINGS: gather time 2, prime setting 1, stall time 1 (R115). -/
def burnSettingsBody (payload : List Byte) (p : Part) : Response × Part :=
  match payload with
  | [g0, g1, pr, st] =>
    let x := settleBurn p.engine.settings (optWord g0 g1) (optByte pr) (optByte st)
    (.settled x.clamped (burnSettingBytes x.value), setBurn x.value p)
  | _ => rangeError p

/-- R115. -/
def execBurnSettings (l : Link) (payload : List Byte) (fill : Nat) (s : State) : Result :=
  linkCommand l payload fill (burnSettingsBody payload) s

/-- SESSION STATUS: session 1 (R134). -/
def sessionStatusBody (payload : List Byte) (p : Part) : Response × Part :=
  match payload with
  | [b] =>
    match numbered 4 b with
    | some n => (.done (sessionRecord p n), p)
    | none => rangeError p
  | _ => rangeError p

/-- R134. -/
def execSessionStatus (l : Link) (payload : List Byte) (fill : Nat) (s : State) : Result :=
  linkCommand l payload fill (sessionStatusBody payload) s

/-- The gather timer of session `n` expires (R118); a session without a running gather timer is left as it is (log
entry 8). -/
def gatherExpires (n : SessionNum) (p : Part) : Part :=
  match p.engine.sessions[n] with
  | some s => if s.gather.isSome then settle (leaveAndReap n p) else p
  | none => p

/-- R118. -/
def execGatherTimerExpiry (n : SessionNum) (s : State) : Result := event (gatherExpires n) s

/-- The members that have not answered (R122). -/
def awaiting (s : Session) : List BayNum := (s.members.filter fun m => !m.prepared).map (·.bay)

/-- The prepare deadline of session `n` expires (R122). -/
def prepareExpires (n : SessionNum) (p : Part) : Part :=
  match p.engine.sessions[n] with
  | some s =>
    if s.state = .preparing && s.prepare.isSome then
      let p := dropMembers n .calibration true (awaiting s) (modSession n (fun s => { s with prepare := none }) p)
      settle (judgePrepared n (reap n p))
    else p
  | none => p

/-- R122. -/
def execPrepareDeadlineExpiry (n : SessionNum) (s : State) : Result := event (prepareExpires n) s

/-- The stall timer of session `n` expires (R125). -/
def stallExpires (n : SessionNum) (p : Part) : Part :=
  match p.engine.sessions[n] with
  | some s =>
    if s.stall.isSome then
      ask (.readyPoll n) (setSession n (some { s with stall := none, laggardPoll := true }) p)
    else p
  | none => p

/-- R125. -/
def execStallTimerExpiry (n : SessionNum) (s : State) : Result := event (stallExpires n) s

/-- The close deadline of session `n` expires (R128). -/
def closeExpires (n : SessionNum) (p : Part) : Part :=
  match p.engine.sessions[n] with
  | some s =>
    if s.state = .closing && s.close.isSome then
      let p := dropMembers n .burnError true (s.members.map (·.bay)) (modSession n (fun s => { s with close := none }) p)
      settle (reap n p)
    else p
  | none => p

/-- R128. -/
def execCloseDeadlineExpiry (n : SessionNum) (s : State) : Result := event (closeExpires n) s

end Sys2Proof.Machine
end

