-- ==== Sys2Proof/Machine/Verify.lean ====
section
/-!
DEFINITION. The commands and timers of the verifier (chapter 7).
-/

namespace Sys2Proof.Machine

/-- The processing of a held block ends (R140 to R148). -/
def execBlockProcessed (k : PlaceNum) (s : State) : Result := event (fun p => settle (processBlock k p)) s

/-- The silence timer of place `k` expires (R144); a timer that does not run does not expire (log entry 8). -/
def silenceExpires (k : PlaceNum) (p : Part) : Part :=
  match p.verifier.places[k] with
  | some r => if r.silence.isSome then settle (endEarly k .verifyUnreadable p) else p
  | none => p

/-- R144. -/
def execSilenceTimerExpiry (k : PlaceNum) (s : State) : Result := event (silenceExpires k) s

/-- The grade limits a command leaves (R149): each limit given is clamped, then each is raised to the one before. -/
def settleLimits (old : GradeLimits) (a b c : Option Nat) : Settled GradeLimits :=
  let la := settleNat 0 8128 old.la a
  let lb := settleNat 0 8128 old.lb b
  let lc := settleNat 0 8128 old.lc c
  let vb := max la.value lb.value
  let vc := max vb lc.value
  ⟨⟨la.value, vb, vc⟩, la.clamped || lb.clamped || lc.clamped || vb != lb.value || vc != lc.value⟩

/-- Replace the grade limits. -/
def setLimits (x : GradeLimits) (p : Part) : Part := { p with verifier := { p.verifier with limits := x } }

/-- VERIFY LIMITS: LA 2, LB 2, LC 2 (R149). -/
def verifyLimitsBody (payload : List Byte) (p : Part) : Response × Part :=
  match payload with
  | [a0, a1, b0, b1, c0, c1] =>
    let x := settleLimits p.verifier.limits (optWord a0 a1) (optWord b0 b1) (optWord c0 c1)
    (.settled x.clamped (limitBytes x.value), setLimits x.value p)
  | _ => rangeError p

/-- R149. -/
def execVerifyLimits (l : Link) (payload : List Byte) (fill : Nat) (s : State) : Result :=
  linkCommand l payload fill (verifyLimitsBody payload) s

/-- VERIFY STATUS (R151). -/
def verifyStatus (p : Part) : Response × Part := (.done (verifyRecord p), p)

/-- R151. -/
def execVerifyStatus (l : Link) (payload : List Byte) (fill : Nat) (s : State) : Result :=
  linkCommand l payload fill (noPayload payload verifyStatus) s

end Sys2Proof.Machine
end

