-- ==== Sys2Proof/Machine/Printing.lean ====
section
/-!
DEFINITION. The commands and events of the label printer (chapter 8).
-/

namespace Sys2Proof.Machine

/-! ## Lines (R158 to R163) -/

/-- The printer is at a line boundary: PRINTING, with no line under way and no cooling gap. -/
def atBoundary (r : Printer) : Bool := r.state = .printing && r.firing.isNone && r.gap.isNone

/-- The label slot's line at the cursor (R19, R155); a slot that is EMPTY gives a blank line. -/
def lineOf (m : List Host.Cell) (p : Part) (l : Label) : List Byte :=
  match p.slots[l.slot] with
  | some s => rasterLine m s l.cursor
  | none => List.replicate 180 0

/-- The label's extent lies in image memory. -/
def labelInMemory (p : Part) (l : Label) : Bool :=
  match p.slots[l.slot] with
  | some s => s.inMemory
  | none => true

/-- The line's record and firing, from the head reading (R158, steps 3 to 7). -/
def fireLine (line : List Byte) (l : Label) (q : Int) (pace : Pace) (r : Printer) : Printer :=
  let f := tempFactor r.settings.kt q
  let time := strobeTime r.settings r.strobe (densityOf l.trim) f
  let printed := printedSet r.settings line l.cursor
  { r with
    pace := pace
    last := some ⟨q, f, time 0, time 1, time 2⟩
    firing := some ⟨printed, strobesOf printed l.history1 l.history2 time⟩ }

/-- The pace of a line from HEAD's condition (R158, step 2). -/
def paceOf : Condition → Pace
  | .normal => .full
  | _ => .half

/-- A line begins at a line boundary of label `l` with a head reading `v` (R158): a ribbon at 0 aborts the label, HEAD
CRITICAL pauses the printer, and otherwise the line is fired. -/
def beginLine (m : List Host.Cell) (l : Label) (v : Int) (p : Part) : Part :=
  if p.printer.ribbon = 0 then settle (abortLabel .pausedRibbon p)
  else
    let q := clampTemp v
    let p := sampleHead v p
    if p.thermal.head.condition = .critical then
      pausing (fun r => { r with state := .pausedHot, hot := some Config.hotMs }) p
    else modPrinter (fireLine (lineOf m p l) l q (paceOf p.thermal.head.condition)) p

/-- LINE_BEGIN (R158). -/
def execLineBegin (v : Int) (s : State) : Result :=
  match s.part.printer.label with
  | some l =>
    if s.part.held || !atBoundary s.part.printer then .next s
    else if !labelInMemory s.part l then .fault .outsideImageMemory
    else .next { s with part := beginLine s.mem l v s.part }
  | none => .next s

/-- The label after a line with the given printed set (R158, step 8). -/
def Label.advance (l : Label) (printed : DotSet) : Label :=
  { l with cursor := l.cursor + 1, history1 := printed, history2 := l.history1 }

/-- The gap after a line (R163): for a line at pace HALF that fired a dot, its longest strobe time. -/
def gapAfter (pace : Pace) (f : Firing) : Option Nat :=
  if pace = .half && !f.strobes.isEmpty then some (longest f.strobes) else none

/-- The line under way has fired its last class (R158, steps 8 to 10). -/
def lineFired (p : Part) : Part :=
  match p.printer.firing with
  | none => p
  | some f =>
    let p := modPrinter (fun r =>
      { r with
        ribbon := r.ribbon - 1
        label := r.label.map fun l => l.advance f.printed
        firing := none
        gap := gapAfter r.pace f }) p
    if p.printer.gap.isSome then p else settle (lineOver p)

/-- LINE_FIRED (R162). -/
def execLineFired (s : State) : Result := event lineFired s

/-- The cooling gap ends (R163). -/
def gapEnds (p : Part) : Part :=
  if p.printer.gap.isSome then settle (lineOver (modPrinter (fun r => { r with gap := none }) p)) else p

/-- R163. -/
def execCoolingGapEnd (s : State) : Result := event gapEnds s

/-! ## Hot timer and ribbon break (R167, R171) -/

/-- The hot timer expires (R167): the label is aborted and the printer stays PAUSED_HOT. -/
def hotExpires (p : Part) : Part :=
  if p.printer.hot.isSome then
    settle (abortLabel .pausedHot (modPrinter (fun r => { r with hot := none }) p))
  else p

/-- R167. -/
def execHotTimerExpiry (s : State) : Result := event hotExpires s

/-- The ribbon-break switch changes to showing a break (R171). -/
def ribbonBreaks (p : Part) : Part :=
  let p := modPrinter (fun r => { r with ribbon := 0 }) p
  settle (match p.printer.state with
    | .printing => abortLabel .pausedRibbon p
    | .pausedHot => abortLabel .pausedHot p
    | .idle => pausing (fun r => { r with state := .pausedRibbon }) p
    | _ => p)

/-- R171. -/
def execRibbonBreak (s : State) : Result := event ribbonBreaks { s with pins := { s.pins with breakShown := true } }

/-! ## Settings and ribbon (R165, R170) -/

/-- The eight print settings as a payload gives them. -/
structure PrintFields where
  ri : Option Nat
  ro : Option Nat
  kt : Option Nat
  m0 : Option Nat
  m1 : Option Nat
  m2 : Option Nat
  tmin : Option Nat
  tmax : Option Nat
  deriving DecidableEq, Repr

/-- The print settings with the given fields written, before they are settled. -/
def PrintFields.over (f : PrintFields) (old : PrintSettings) : PrintSettings where
  ri := f.ri.getD old.ri
  ro := f.ro.getD old.ro
  kt := f.kt.getD old.kt
  m0 := f.m0.getD old.m0
  m1 := f.m1.getD old.m1
  m2 := f.m2.getD old.m2
  tmin := f.tmin.getD old.tmin
  tmax := f.tmax.getD old.tmax

/-- The steps of R165. -/
def PrintSettings.settle (x : PrintSettings) : PrintSettings :=
  let ro := clampNat 1 1018 x.ro
  let tmin := clampNat 50 2500 x.tmin
  { ri := clampNat 0 (ro - 1) x.ri
    ro := ro
    kt := clampNat 0 40 x.kt
    m0 := clampNat 64 256 x.m0
    m1 := clampNat 64 256 x.m1
    m2 := clampNat 64 256 x.m2
    tmin := tmin
    tmax := max tmin (clampNat 50 2500 x.tmax) }

/-- The print settings a command leaves; a value is marked as clamped when any step changed it (R165). -/
def settlePrint (old : PrintSettings) (f : PrintFields) : Settled PrintSettings :=
  ⟨(f.over old).settle, (f.over old).settle != f.over old⟩

/-- Replace the print settings. -/
def setPrint (x : PrintSettings) (p : Part) : Part := { p with printer := { p.printer with settings := x } }

/-- PRINT SETTINGS: ri, ro 2 each, kt 1, M0, M1, M2, Tmin, Tmax 2 each (R165). -/
def printSettingsBody (payload : List Byte) (p : Part) : Response × Part :=
  match payload with
  | [a0, a1, b0, b1, k, c0, c1, d0, d1, e0, e1, f0, f1, g0, g1] =>
    let x := settlePrint p.printer.settings
      ⟨optWord a0 a1, optWord b0 b1, optByte k, optWord c0 c1, optWord d0 d1, optWord e0 e1, optWord f0 f1,
        optWord g0 g1⟩
    (.settled x.clamped (printSettingBytes x.value), setPrint x.value p)
  | _ => rangeError p

/-- R165. -/
def execPrintSettings (l : Link) (payload : List Byte) (fill : Nat) (s : State) : Result :=
  linkCommand l payload fill (printSettingsBody payload) s

/-- The printer's state after a RIBBON LOADED of a length (R170). -/
def ribbonState (r : Printer) (length : Nat) : PrinterState :=
  match r.state with
  | .idle => if length = 0 then .pausedRibbon else .idle
  | .pausedRibbon => if length = 0 then .pausedRibbon else if r.disc.isSome then .doneWait else .idle
  | st => st

/-- A RIBBON LOADED that is taken (R170). -/
def loadRibbon (length : Nat) (tb : Option Nat) (p : Part) : Response × Part :=
  let n := clampNat 0 4000000 length
  let t := settleNat 100 2000 p.printer.strobe tb
  let removed := p.printer.state = .idle && n = 0
  (.settled (n != length || t.clamped) (le32 n ++ le16 t.value),
    settle (raiseIf removed .printer
      (modPrinter (fun r => { r with ribbon := n, strobe := t.value, state := ribbonState r n }) p)))

/-- RIBBON LOADED: length 4, Tb 2 (R170); `breakShown` is the switch as the command is taken. -/
def ribbonLoadedBody (payload : List Byte) (breakShown : Bool) (p : Part) : Response × Part :=
  match payload with
  | [l0, l1, l2, l3, t0, t1] =>
    match optQuad l0 l1 l2 l3 with
    | none => rangeError p
    | some n =>
      if breakShown || p.printer.state = .printing || p.printer.state = .pausedHot then refuse .state p
      else loadRibbon n (optWord t0 t1) p
  | _ => rangeError p

/-- R170. -/
def execRibbonLoaded (l : Link) (payload : List Byte) (fill : Nat) (breakShown : Bool) (s : State) : Result :=
  linkCommand l payload fill (ribbonLoadedBody payload breakShown)
    { s with pins := { s.pins with breakShown := breakShown } }

/-- PRINTER STATUS (R174). -/
def printerStatus (pins : Pins) (p : Part) : Response × Part := (.done (printerRecord p pins), p)

/-- R174: the two switches are read as the command is taken. -/
def execPrinterStatus (l : Link) (payload : List Byte) (fill : Nat) (breakShown trayShown : Bool) (s : State) :
    Result :=
  let pins := { s.pins with breakShown := breakShown, trayShown := trayShown }
  linkCommand l payload fill (noPayload payload (printerStatus pins)) { s with pins := pins }

end Sys2Proof.Machine
end

