-- ==== Sys2Proof/Machine/Thermals.lean ====
section
/-!
DEFINITION. The commands and samples of the thermal monitor (chapter 9).
-/

namespace Sys2Proof.Machine

/-- HEAD's periodic timer expires (R177): `v` is what the sensor reads. -/
def execHeadPeriodicSample (v : Int) (s : State) : Result := event (fun p => settle (headPeriodic v p)) s

/-- AMBIENT's periodic timer expires (R178, R181). -/
def execAmbientPeriodicSample (v : Int) (s : State) : Result := event (fun p => settle (sampleAmbient v p)) s

/-- A pair of limits, given or kept, before it is settled. -/
def LimitPair.over (old : LimitPair) (h c : Option Int) : LimitPair := ⟨h.getD old.high, c.getD old.critical⟩

/-- The steps of R182 on a pair. -/
def LimitPair.settle (x : LimitPair) : LimitPair :=
  let h := min 503 (clampTemp x.high)
  ⟨h, max (h + 8) (clampTemp x.critical)⟩

/-- The six limits as a payload gives them. -/
structure LimitFields where
  headHigh : Option Int
  headCritical : Option Int
  ambientHigh : Option Int
  ambientCritical : Option Int
  bayHigh : Option Int
  bayCritical : Option Int
  deriving DecidableEq, Repr

/-- The limits with the given fields written, before they are settled. -/
def LimitFields.over (f : LimitFields) (old : ThermalLimits) : ThermalLimits :=
  ⟨old.head.over f.headHigh f.headCritical, old.ambient.over f.ambientHigh f.ambientCritical,
    old.bay.over f.bayHigh f.bayCritical⟩

/-- All three pairs settled (R182). -/
def ThermalLimits.settle (x : ThermalLimits) : ThermalLimits := ⟨x.head.settle, x.ambient.settle, x.bay.settle⟩

/-- The limits a command leaves; marked as clamped when any step changed a value (R182). -/
def settleThermal (old : ThermalLimits) (f : LimitFields) : Settled ThermalLimits :=
  ⟨(f.over old).settle, (f.over old).settle != f.over old⟩

/-- Replace the limits. -/
def setThermal (x : ThermalLimits) (p : Part) : Part := { p with thermal := { p.thermal with limits := x } }

/-- The six temperature words of THERMAL LIMITS; `none` for a word with a bit set above the lower 10 (R209). -/
def parseLimits : List Byte → Option LimitFields
  | [a0, a1, b0, b1, c0, c1, d0, d1, e0, e1, f0, f1] => do
    let a ← optTemp a0 a1
    let b ← optTemp b0 b1
    let c ← optTemp c0 c1
    let d ← optTemp d0 d1
    let e ← optTemp e0 e1
    let f ← optTemp f0 f1
    some ⟨a, b, c, d, e, f⟩
  | _ => none

/-- THERMAL LIMITS (R182). -/
def thermalLimitsBody (payload : List Byte) (p : Part) : Response × Part :=
  match parseLimits payload with
  | some f =>
    let x := settleThermal p.thermal.limits f
    (.settled x.clamped (thermalLimitBytes x.value), setThermal x.value p)
  | none => rangeError p

/-- R182. -/
def execThermalLimits (l : Link) (payload : List Byte) (fill : Nat) (s : State) : Result :=
  linkCommand l payload fill (thermalLimitsBody payload) s

/-- THERMAL READ (R183). -/
def thermalRead (p : Part) : Response × Part := (.done (thermalRecord p), p)

/-- R183. -/
def execThermalRead (l : Link) (payload : List Byte) (fill : Nat) (s : State) : Result :=
  linkCommand l payload fill (noPayload payload thermalRead) s

end Sys2Proof.Machine
end

