-- ==== Sys2Proof/Machine/LinkWork.lean ====
section
/-!
DEFINITION. The commands that the link units own (chapters 10 and 11): summary reads, NULL, discarded frames, LINK
RESET, the event flags and the results ring.
-/

namespace Sys2Proof.Machine

/-- SUMMARY READ: a frame of one byte (R192). -/
def execSummaryRead (l : Link) (_ : Byte) (s : State) : Result :=
  frameEnds l s (.next (setPort l { s.ports[l] with clockedOut := [summaryByte s.part l] } s))

/-- NULL (R193). -/
def nullBody (p : Part) : Response × Part := (.idle, p)

/-- R193: the payload is not read. -/
def execNullCommand (l : Link) (payload : List Byte) (fill : Nat) (s : State) : Result :=
  linkCommand l payload fill nullBody s

/-- The response to a frame that is discarded (R185 to R187). -/
def discardResponse : Verdict → Option Response
  | .unknown => some .unknown
  | .short => some .short
  | .crcFault => some .crcFault
  | _ => none

/-- DISCARDED FRAME (R185 to R187): a frame given byte for byte. A select that rises without a whole byte is ignored
(R185), but for ending a select that straddles a reset (R196). A frame that passes its checks is no discarded frame
but another command of the table, and has no effect under this row (log entry 8). -/
def execDiscardedFrame (l : Link) (bytes : List Byte) (s : State) : Result :=
  frameEnds l s
    (match discardResponse (judgeFrame bytes) with
    | some r => .next (answered l bytes.length s r s.part)
    | none => .next s)

/-- Replace the event side of a link. -/
def setLink (l : Link) (e : LinkEvents) (p : Part) : Part := { p with links := put p.links l e }

/-- LINK RESET (R194): flags clear, mask all enabled, nothing unread. -/
def resetLink (l : Link) (p : Part) : Response × Part := (.first, setLink l .reset p)

/-- R194. -/
def execLinkReset (l : Link) (payload : List Byte) (fill : Nat) (s : State) : Result :=
  linkCommand l payload fill (noPayload payload (resetLink l)) s

/-- EVENTS READ (R200). -/
def readEvents (l : Link) (p : Part) : Response × Part :=
  (.done (encFlags p.links[l].flags ++ encFlags p.links[l].mask ++ [byte p.links[l].unread]), p)

/-- R200. -/
def execEventsRead (l : Link) (payload : List Byte) (fill : Nat) (s : State) : Result :=
  linkCommand l payload fill (noPayload payload (readEvents l)) s

/-- A command that carries a flag set (R201, R202, R208). -/
def withFlags (payload : List Byte) (f : FlagSet → Part → Response × Part) (p : Part) : Response × Part :=
  match payload with
  | [b0, b1] =>
    match flagsOf b0 b1 with
    | some x => f x p
    | none => rangeError p
  | _ => rangeError p

/-- EVENTS CLEAR (R201). -/
def clearEvents (l : Link) (x : FlagSet) (p : Part) : Response × Part :=
  let before := p.links[l].flags
  (.done (encFlags before ++ encFlags (before &&& ~~~x)),
    setLink l { p.links[l] with flags := before &&& ~~~x } p)

/-- R201. -/
def execEventsClear (l : Link) (payload : List Byte) (fill : Nat) (s : State) : Result :=
  linkCommand l payload fill (withFlags payload (clearEvents l)) s

/-- EVENTS MASK (R202). -/
def maskEvents (l : Link) (x : FlagSet) (p : Part) : Response × Part :=
  (.done (encFlags x ++ encFlags p.links[l].flags), setLink l { p.links[l] with mask := x } p)

/-- R202. -/
def execEventsMask (l : Link) (payload : List Byte) (fill : Nat) (s : State) : Result :=
  linkCommand l payload fill (withFlags payload (maskEvents l)) s

/-- The link's unread entries: the newest of the ring (R204). -/
def unreadEntries (p : Part) (l : Link) : List ResultEntry := p.ring.drop (p.ring.length - p.links[l].unread)

/-- RESULTS READ of `n` entries, 1 to 8 (R204). -/
def readResults (l : Link) (n : Nat) (p : Part) : Response × Part :=
  let got := (unreadEntries p l).take n
  let left := p.links[l].unread - got.length
  (.done (byte got.length :: got.flatMap resultBytes ++ [byte left]), setLink l { p.links[l] with unread := left } p)

/-- The count of a RESULTS READ: left out it is 8; 0 or above 8 is refused (R204). -/
def resultsCount : List Byte → Option Nat
  | [] => some 8
  | [b] =>
    match optByte b with
    | none => some 8
    | some n => if 1 ≤ n ∧ n ≤ 8 then some n else none
  | _ => none

/-- RESULTS READ: count 1, or nothing (R204, R208). -/
def resultsReadBody (l : Link) (payload : List Byte) (p : Part) : Response × Part :=
  match resultsCount payload with
  | some n => readResults l n p
  | none => rangeError p

/-- R204. -/
def execResultsRead (l : Link) (payload : List Byte) (fill : Nat) (s : State) : Result :=
  linkCommand l payload fill (resultsReadBody l payload) s

end Sys2Proof.Machine
end

