-- ==== Sys2Proof/Machine/Resets.lean ====
section
/-!
DEFINITION. Tower reset and the leaving of it (R13, R20, R42, R70, R72, R77, R90, R111, R135, R152, R175, R184, R195,
R196, R198, R206).
-/

namespace Sys2Proof.Machine

/-- TOWER RESET: every table empty, every timer stopped, every line released; the part is held until RESET_RELEASE. The
queue of commands and the pins are the outside world's. -/
def execTowerReset (s : State) : Result := .next { State.reset with pending := s.pending, pins := s.pins }

/-- The census of the tray (R70, R157): a disc there is an orphan. -/
def trayCensus (p : Part) : Part :=
  let id := newId p
  let p := createDisc (fun id =>
    ⟨id, none, .failed, .tray, none, none, none, none, none, none, false, some .orphan⟩) p
  notPrinted id (addOrder .printerToReject id .tray .rejectBin p)

/-- Discovery: CLEAR ALL, and a status read of each bay in turn (R77, R111). -/
def discover (p : Part) : Part :=
  (List.finRange 10).foldl (fun p b => ask (.statusRead b false) p) (ask .clearAll p)

/-- What the blocks do as the part leaves tower reset (R13, R184, R198, R70, R77). ATTN is not judged here: where it is
asserted already, its rise came while the part was held, and a SERVICE POLL waits for its next rise or for the end of
another poll's reads (DESIGN CHOICE, unsafe, log entry 25). -/
def leaveReset (strapTied trayShown : Bool) (head ambient : Int) (p : Part) : Part :=
  let p := raise .reset { p with held := false, strap := strapTied }
  let p := sampleAmbient ambient (sampleHead head p)
  settle (discover (if trayShown then trayCensus p else p))

/-- The ports as the part leaves tower reset: a select that is low already is waited out (R196). -/
def releasePorts (selectLow : BitVec 3) (ports : Vector Port 3) : Vector Port 3 :=
  Vector.ofFn fun l : Fin 3 => { ports[l] with straddling := selectLow.getLsbD l.val }

/-- RESET RELEASE (R198); a part that is not held in tower reset does not leave it (log entry 8). -/
def execResetRelease (strapTied trayShown breakShown : Bool) (head ambient : Int) (selectLow : BitVec 3) (s : State) :
    Result :=
  if s.part.held then
    .next { s with
      pins := { s.pins with strapTied := strapTied, trayShown := trayShown, breakShown := breakShown }
      ports := releasePorts selectLow s.ports
      part := leaveReset strapTied trayShown head ambient s.part }
  else .next s

end Sys2Proof.Machine
end

