-- ==== Sys2Proof/Machine/Clock.lean ====
section
/-!
DEFINITION. The passing of 1 ms, in which every running timer falls. This is what a step does on an empty queue: DESIGN
CHOICE, safe, log entry 1. A timer stops at 0; what it brings about is its expiry's row of the table.
-/

namespace Sys2Proof.Machine

/-- A timer `n` units later. -/
def down (n : Nat) (t : Option Nat) : Option Nat := t.map (· - n)

/-- The timers of a bay (R79, R80). -/
def Bay.tick (x : Bay) : Bay := { x with housekeeping := down 1 x.housekeeping, probe := down 1 x.probe }

/-- The timers of a broadcast session (R112). -/
def Session.tick (x : Session) : Session :=
  { x with gather := down 1 x.gather, prepare := down 1 x.prepare, stall := down 1 x.stall, close := down 1 x.close }

/-- The silence timer of a readback (R138). -/
def Readback.tick (x : Readback) : Readback := { x with silence := down 1 x.silence }

/-- The hot timer and the cooling gap, which counts microseconds (R163, R167). -/
def Printer.tick (x : Printer) : Printer := { x with hot := down 1 x.hot, gap := down 1000 x.gap }

/-- A sensor's periodic timer (R176). -/
def Sensor.tick (x : Sensor) : Sensor := { x with timer := down 1 x.timer }

/-- The pause and the attention hold-off (R100, R110). -/
def Bus.tick (x : Bus) : Bus := { x with pause := down 1 x.pause, holdOff := down 1 x.holdOff }

/-- 1 ms passes. -/
def tick (p : Part) : Part :=
  { p with
    bays := p.bays.map Bay.tick
    bus := p.bus.tick
    engine := { p.engine with sessions := p.engine.sessions.map fun s => s.map Session.tick }
    verifier := { p.verifier with places := p.verifier.places.map fun r => r.map Readback.tick }
    printer := p.printer.tick
    thermal := { p.thermal with head := p.thermal.head.tick, ambient := p.thermal.ambient.tick } }

end Sys2Proof.Machine
end

