-- ==== Sys2Proof/Machine/Dispatch.lean ====
section
/-! DEFINITION. One arm per command: each is one call of the command's meaning. -/

namespace Sys2Proof.Machine

def exec (i : Instr) (s : State) : Host.Outcome State Fault Refusal :=
  match i with
  | .imageOpen link payload fill => Sys2Proof.Machine.execImageOpen link payload fill s
  | .imageWrite link slot index data fill => Sys2Proof.Machine.execImageWrite link slot index data fill s
  | .imageFreeze link payload fill => Sys2Proof.Machine.execImageFreeze link payload fill s
  | .imageRetire link payload fill => Sys2Proof.Machine.execImageRetire link payload fill s
  | .imageThaw link payload fill => Sys2Proof.Machine.execImageThaw link payload fill s
  | .imageStatus link payload fill => Sys2Proof.Machine.execImageStatus link payload fill s
  | .jobDefine link payload fill => Sys2Proof.Machine.execJobDefine link payload fill s
  | .jobAmend link payload fill => Sys2Proof.Machine.execJobAmend link payload fill s
  | .jobQueue link payload fill => Sys2Proof.Machine.execJobQueue link payload fill s
  | .jobHalt link payload fill => Sys2Proof.Machine.execJobHalt link payload fill s
  | .jobResume link payload fill => Sys2Proof.Machine.execJobResume link payload fill s
  | .jobCancel link payload fill => Sys2Proof.Machine.execJobCancel link payload fill s
  | .jobRemove link payload fill => Sys2Proof.Machine.execJobRemove link payload fill s
  | .jobStatus link payload fill => Sys2Proof.Machine.execJobStatus link payload fill s
  | .moveNext link payload fill => Sys2Proof.Machine.execMoveNext link payload fill s
  | .moveDone link payload fill => Sys2Proof.Machine.execMoveDone link payload fill s
  | .moveFailedNoDisc link payload fill => Sys2Proof.Machine.execMoveFailedNoDisc link payload fill s
  | .moveFailedDropped link payload fill => Sys2Proof.Machine.execMoveFailedDropped link payload fill s
  | .moveFailedJam link payload fill => Sys2Proof.Machine.execMoveFailedJam link payload fill s
  | .flowResume link payload fill => Sys2Proof.Machine.execFlowResume link payload fill s
  | .spindleReport link payload fill => Sys2Proof.Machine.execSpindleReport link payload fill s
  | .binReport link payload fill => Sys2Proof.Machine.execBinReport link payload fill s
  | .discRead link payload fill => Sys2Proof.Machine.execDiscRead link payload fill s
  | .bayEnable link payload fill => Sys2Proof.Machine.execBayEnable link payload fill s
  | .bayDisable link payload fill => Sys2Proof.Machine.execBayDisable link payload fill s
  | .bayStatus link payload fill => Sys2Proof.Machine.execBayStatus link payload fill s
  | .housekeepingTimerExpiry bay => Sys2Proof.Machine.execHousekeepingTimerExpiry bay s
  | .probeTimerExpiry bay => Sys2Proof.Machine.execProbeTimerExpiry bay s
  | .serviceRound => Sys2Proof.Machine.execServiceRound s
  | .grant ready => Sys2Proof.Machine.execGrant ready s
  | .grantPauseExpiry => Sys2Proof.Machine.execGrantPauseExpiry s
  | .busCommandTaken lanes attn => Sys2Proof.Machine.execBusCommandTaken lanes attn s
  | .busCommandLimit lanes attn => Sys2Proof.Machine.execBusCommandLimit lanes attn s
  | .messageTaken => Sys2Proof.Machine.execMessageTaken s
  | .messageLimit => Sys2Proof.Machine.execMessageLimit s
  | .blockAccepted => Sys2Proof.Machine.execBlockAccepted s
  | .blockAbandoned => Sys2Proof.Machine.execBlockAbandoned s
  | .readbackBlockTaken data trailer => Sys2Proof.Machine.execReadbackBlockTaken data trailer s
  | .readbackTurnEmpty => Sys2Proof.Machine.execReadbackTurnEmpty s
  | .statusReadAnswered record attn => Sys2Proof.Machine.execStatusReadAnswered record attn s
  | .statusReadUnanswered attn => Sys2Proof.Machine.execStatusReadUnanswered attn s
  | .attnRise => Sys2Proof.Machine.execAttnRise s
  | .attentionHoldOffExpiry attn => Sys2Proof.Machine.execAttentionHoldOffExpiry attn s
  | .burnSettings link payload fill => Sys2Proof.Machine.execBurnSettings link payload fill s
  | .sessionStatus link payload fill => Sys2Proof.Machine.execSessionStatus link payload fill s
  | .gatherTimerExpiry session => Sys2Proof.Machine.execGatherTimerExpiry session s
  | .prepareDeadlineExpiry session => Sys2Proof.Machine.execPrepareDeadlineExpiry session s
  | .stallTimerExpiry session => Sys2Proof.Machine.execStallTimerExpiry session s
  | .closeDeadlineExpiry session => Sys2Proof.Machine.execCloseDeadlineExpiry session s
  | .blockProcessed place => Sys2Proof.Machine.execBlockProcessed place s
  | .silenceTimerExpiry place => Sys2Proof.Machine.execSilenceTimerExpiry place s
  | .verifyLimits link payload fill => Sys2Proof.Machine.execVerifyLimits link payload fill s
  | .verifyStatus link payload fill => Sys2Proof.Machine.execVerifyStatus link payload fill s
  | .lineBegin value => Sys2Proof.Machine.execLineBegin value s
  | .lineFired => Sys2Proof.Machine.execLineFired s
  | .coolingGapEnd => Sys2Proof.Machine.execCoolingGapEnd s
  | .hotTimerExpiry => Sys2Proof.Machine.execHotTimerExpiry s
  | .ribbonBreak => Sys2Proof.Machine.execRibbonBreak s
  | .printSettings link payload fill => Sys2Proof.Machine.execPrintSettings link payload fill s
  | .ribbonLoaded link payload fill breakShown => Sys2Proof.Machine.execRibbonLoaded link payload fill breakShown s
  | .printerStatus link payload fill breakShown trayShown => Sys2Proof.Machine.execPrinterStatus link payload fill breakShown trayShown s
  | .headPeriodicSample value => Sys2Proof.Machine.execHeadPeriodicSample value s
  | .ambientPeriodicSample value => Sys2Proof.Machine.execAmbientPeriodicSample value s
  | .thermalLimits link payload fill => Sys2Proof.Machine.execThermalLimits link payload fill s
  | .thermalRead link payload fill => Sys2Proof.Machine.execThermalRead link payload fill s
  | .summaryRead link sent => Sys2Proof.Machine.execSummaryRead link sent s
  | .nullCommand link payload fill => Sys2Proof.Machine.execNullCommand link payload fill s
  | .discardedFrame link bytes => Sys2Proof.Machine.execDiscardedFrame link bytes s
  | .linkReset link payload fill => Sys2Proof.Machine.execLinkReset link payload fill s
  | .eventsRead link payload fill => Sys2Proof.Machine.execEventsRead link payload fill s
  | .eventsClear link payload fill => Sys2Proof.Machine.execEventsClear link payload fill s
  | .eventsMask link payload fill => Sys2Proof.Machine.execEventsMask link payload fill s
  | .resultsRead link payload fill => Sys2Proof.Machine.execResultsRead link payload fill s
  | .towerReset => Sys2Proof.Machine.execTowerReset s
  | .resetRelease strapTied trayShown breakShown head ambient selectLow => Sys2Proof.Machine.execResetRelease strapTied trayShown breakShown head ambient selectLow s

end Sys2Proof.Machine
end

