-- ==== Sys2Proof/WellFormed.lean ====
section
/-!
DEFINITION. Which terms of `Instr` are commands that can come about: a frame's payload fits a frame (R186), the data of
a bulk frame or a readback block are 65,536 bytes (R187, R95), a MOVE FAILED stands under the row of its failure byte
(12.4), and a discarded frame is one that its checks discard (R185 to R187) or a select without a whole byte (R185).
-/

namespace Sys2Proof

open Machine in
/-- The checks, one for each shape of command. -/
def Instr.wellFormed : Instr → Bool
  | .imageWrite _ _ _ data _ => data.length == Config.blockBytes
  | .moveFailedNoDisc l p n => decide (p.length ≤ Config.maxPayload) && moveFailedOf l p n == .moveFailedNoDisc l p n
  | .moveFailedDropped l p n => decide (p.length ≤ Config.maxPayload) && moveFailedOf l p n == .moveFailedDropped l p n
  | .moveFailedJam l p n => decide (p.length ≤ Config.maxPayload) && moveFailedOf l p n == .moveFailedJam l p n
  | .readbackBlockTaken data _ => data.length == Config.blockBytes
  | .discardedFrame _ bytes => bytes.isEmpty || (discardResponse (judgeFrame bytes)).isSome
  | i =>
    match commandOf i with
    | some x => decide (x.2.length ≤ Config.maxPayload)
    | none => true

end Sys2Proof
end

