-- ==== Sys2Proof/Safety.lean ====
section
/-!
DEFINITION. The terms in which claims speak: what a command completes with, which link a frame is on, and the
conditions that every step keeps.
-/

namespace Sys2Proof

/-- The link on which a command's frame arrives; none for a command that is no frame. -/
def Instr.linkOf : Instr → Option Link
  | .imageOpen l _ _ => some l
  | .imageWrite l _ _ _ _ => some l
  | .imageFreeze l _ _ => some l
  | .imageRetire l _ _ => some l
  | .imageThaw l _ _ => some l
  | .imageStatus l _ _ => some l
  | .jobDefine l _ _ => some l
  | .jobAmend l _ _ => some l
  | .jobQueue l _ _ => some l
  | .jobHalt l _ _ => some l
  | .jobResume l _ _ => some l
  | .jobCancel l _ _ => some l
  | .jobRemove l _ _ => some l
  | .jobStatus l _ _ => some l
  | .moveNext l _ _ => some l
  | .moveDone l _ _ => some l
  | .moveFailedNoDisc l _ _ => some l
  | .moveFailedDropped l _ _ => some l
  | .moveFailedJam l _ _ => some l
  | .flowResume l _ _ => some l
  | .spindleReport l _ _ => some l
  | .binReport l _ _ => some l
  | .discRead l _ _ => some l
  | .bayEnable l _ _ => some l
  | .bayDisable l _ _ => some l
  | .bayStatus l _ _ => some l
  | .burnSettings l _ _ => some l
  | .sessionStatus l _ _ => some l
  | .verifyLimits l _ _ => some l
  | .verifyStatus l _ _ => some l
  | .printSettings l _ _ => some l
  | .ribbonLoaded l _ _ _ => some l
  | .printerStatus l _ _ _ _ => some l
  | .thermalLimits l _ _ => some l
  | .thermalRead l _ _ => some l
  | .summaryRead l _ => some l
  | .nullCommand l _ _ => some l
  | .discardedFrame l _ => some l
  | .linkReset l _ _ => some l
  | .eventsRead l _ _ => some l
  | .eventsClear l _ _ => some l
  | .eventsMask l _ _ => some l
  | .resultsRead l _ _ => some l
  | .housekeepingTimerExpiry _ => none
  | .probeTimerExpiry _ => none
  | .serviceRound => none
  | .grant _ => none
  | .grantPauseExpiry => none
  | .busCommandTaken _ _ => none
  | .busCommandLimit _ _ => none
  | .messageTaken => none
  | .messageLimit => none
  | .blockAccepted => none
  | .blockAbandoned => none
  | .readbackBlockTaken _ _ => none
  | .readbackTurnEmpty => none
  | .statusReadAnswered _ _ => none
  | .statusReadUnanswered _ => none
  | .attnRise => none
  | .attentionHoldOffExpiry _ => none
  | .gatherTimerExpiry _ => none
  | .prepareDeadlineExpiry _ => none
  | .stallTimerExpiry _ => none
  | .closeDeadlineExpiry _ => none
  | .blockProcessed _ => none
  | .silenceTimerExpiry _ => none
  | .lineBegin _ => none
  | .lineFired => none
  | .coolingGapEnd => none
  | .hotTimerExpiry => none
  | .ribbonBreak => none
  | .headPeriodicSample _ => none
  | .ambientPeriodicSample _ => none
  | .towerReset => none
  | .resetRelease _ _ _ _ _ _ => none

/-- The two commands of the RESET pin. -/
def Instr.isReset : Instr → Bool
  | .towerReset => true
  | .resetRelease _ _ _ _ _ _ => true
  | _ => false

/-- The command puts an event flag of link `l` or its mask back: EVENTS CLEAR, EVENTS MASK or LINK RESET of that link,
or a tower reset (R194, R197, R202). -/
def Instr.endsEventsOf (l : Link) : Instr → Bool
  | .eventsClear m _ _ => m = l
  | .eventsMask m _ _ => m = l
  | .linkReset m _ _ => m = l
  | .towerReset => true
  | _ => false

/-- The switches that a command reads agree with the pins (R170, R174). -/
def Instr.switchesAgree (pins : Machine.Pins) : Instr → Prop
  | .ribbonLoaded _ _ _ b => pins.breakShown = b
  | .printerStatus _ _ _ b t => pins.breakShown = b ∧ pins.trayShown = t
  | _ => True

namespace Machine

/-! ## What a command completes with -/

/-- A safe step: the machine goes on. -/
def Safe (s : State) : Prop := ∃ t, step s = .next t

/-- Link `l` takes frames: the part is out of tower reset and no select straddles it (R195, R196). -/
def LinkOpen (l : Link) (s : State) : Prop := s.part.held = false ∧ s.ports[l].straddling = false

/-- Every byte of image memory reads as before. -/
def KeepsMemory (s t : State) : Prop := ∀ a, readByte t.mem a = readByte s.mem a

/-- The queue of commands, the pins and every byte of image memory are as before. -/
def KeepsOutside (s t : State) : Prop := t.pending = s.pending ∧ t.pins = s.pins ∧ KeepsMemory s t

/-- A frame of `n` bytes on link `l` has left response `r` pending and clocked out what R190 gives; the other two ports
are as before. -/
def AnsweredWith (l : Link) (n : Nat) (r : Response) (s t : State) : Prop :=
  t.ports[l] = ⟨[], r, clockOut s.part l s.ports[l].response n, s.ports[l].straddling⟩ ∧
    ∀ m : Link, m ≠ l → t.ports[m] = s.ports[m]

/-- The command `i`, a frame of `n` bytes on link `l`, completes: it leaves response `r`, the part becomes `p`, and
nothing else changes. -/
def CompletesIn (i : Instr) (l : Link) (n : Nat) (s : State) (r : Response) (p : Part) : Prop :=
  ∃ t, exec i s = .next t ∧ KeepsOutside s t ∧ AnsweredWith l n r s t ∧ t.part = p

/-- The same for a command frame with a payload and fill, `i` being what those make of it. -/
def Completes (i : Link → List Byte → Nat → Instr) (l : Link) (payload : List Byte) (fill : Nat) (s : State)
    (r : Response) (p : Part) : Prop :=
  CompletesIn (i l payload fill) l (5 + payload.length + fill) s r p

/-- The command `i`, which is no frame, completes: the part becomes `p`, and nothing else changes. -/
def Happens (i : Instr) (s : State) (p : Part) : Prop :=
  ∃ t, exec i s = .next t ∧ KeepsOutside s t ∧ t.ports = s.ports ∧ t.part = p

/-- The same for a command that also samples the pins. -/
def HappensSampling (i : Instr) (s : State) (pins : Pins) (p : Part) : Prop :=
  ∃ t, exec i s = .next t ∧ t.pending = s.pending ∧ t.pins = pins ∧ KeepsMemory s t ∧ t.ports = s.ports ∧ t.part = p

/-! ## What every step keeps -/

/-- The slots' extents lie in image memory, and no two of them share a chunk (R1, R3). -/
def ExtentsApart (p : Part) : Prop :=
  (∀ (n : SlotNum) (x : Slot), p.slots[n] = some x → x.first + x.chunkCount ≤ Config.chunks) ∧
    ∀ (m n : SlotNum) (x y : Slot), m ≠ n → p.slots[m] = some x → p.slots[n] = some y →
      x.first + x.chunkCount ≤ y.first ∨ y.first + y.chunkCount ≤ x.first

/-- At most two jobs hold an admission place (R29). -/
def TwoPlaces (p : Part) : Prop := placesHeld p ≤ 2

/-- The results ring holds at most 64 entries, and no link has more unread than the ring holds (R203, R204). -/
def RingBounded (p : Part) : Prop := p.ring.length ≤ 64 ∧ ∀ l : Link, p.links[l].unread ≤ p.ring.length

/-- The move queue is in class order, and by creation sequence within a class (R59); the next creation sequence is above
every one given. -/
def QueueOrdered (p : Part) : Prop :=
  p.flow.queue.Pairwise (fun a b => a.kind.cls < b.kind.cls ∨ (a.kind.cls = b.kind.cls ∧ a.seq < b.seq)) ∧
    ∀ o ∈ p.flow.queue, o.seq < p.flow.nextSeq

/-- The grant ring holds no session twice and at most 6 entries (R106). -/
def RingOnce (ring : List RingEntry) : Prop := ring.Nodup ∧ ring.length ≤ 6

/-- A bay is OFFLINE exactly while it is not present (R74). -/
def OfflineExactly (bays : Vector Bay 10) : Prop := ∀ b : BayNum, bays[b].state = .offline ↔ bays[b].present = false

/-- A bay stands once at most among the members of the sessions and the waiting bays together (R113, R117). -/
structure BaysOnce (e : Engine) : Prop where
  members : ∀ (n : SessionNum) (x : Session), e.sessions[n] = some x → (x.members.map (·.bay)).Nodup
  apart : ∀ (m n : SessionNum) (x y : Session), e.sessions[m] = some x → e.sessions[n] = some y → m ≠ n →
    ∀ c ∈ x.members, ∀ d ∈ y.members, c.bay ≠ d.bay
  waiting : e.waiting.Nodup
  outside : ∀ (n : SessionNum) (x : Session), e.sessions[n] = some x → ∀ c ∈ x.members, c.bay ∉ e.waiting

/-- How often a listed job names slot `n`: once as its disc slot and once as its label slot (R12, R40). -/
def namings (n : SlotNum) : Option Job → Nat
  | some x =>
    if x.state.listed then (if x.defn.discSlot = n then 1 else 0) + (if x.defn.labelSlot = some n then 1 else 0) else 0
  | none => 0

/-- How often the listed jobs of a job table name slot `n`. -/
def namingsOf (jobs : Vector (Option Job) 12) (n : SlotNum) : Nat := (jobs.toList.map (namings n)).sum

/-- A slot's reference count is `k`; an EMPTY or FILLING slot is not named (R4, R12). -/
def SlotCounts (x : Option Slot) (k : Nat) : Prop :=
  match x with
  | some s => s.refs = k ∧ (s.state = .filling → k = 0)
  | none => k = 0

/-- Every reference count is the number of namings of its slot by the listed jobs (R12, R40). -/
def RefsCounted (p : Part) : Prop := ∀ n : SlotNum, SlotCounts p.slots[n] (namingsOf p.jobs n)

/-- A pair of thermal limits as R182 leaves it. -/
def LimitPair.legal (x : LimitPair) : Prop := -160 ≤ x.high ∧ x.high + 8 ≤ x.critical ∧ x.critical ≤ 511

/-- Every setting lies in its range (R115, R149, R165, R169, R170, R182). -/
structure SettingsLegal (p : Part) : Prop where
  gather : p.engine.settings.gatherTime ≤ 600
  prime : 4 ≤ p.engine.settings.primeSetting ∧ p.engine.settings.primeSetting ≤ 64
  stall : 1 ≤ p.engine.settings.stallTime ∧ p.engine.settings.stallTime ≤ 40
  grades : p.verifier.limits.la ≤ p.verifier.limits.lb ∧ p.verifier.limits.lb ≤ p.verifier.limits.lc ∧
    p.verifier.limits.lc ≤ 8128
  radii : p.printer.settings.ri < p.printer.settings.ro ∧ p.printer.settings.ro ≤ 1018
  coefficient : p.printer.settings.kt ≤ 40
  multipliers : ∀ h, 64 ≤ p.printer.settings.mult h ∧ p.printer.settings.mult h ≤ 256
  strobes : 50 ≤ p.printer.settings.tmin ∧ p.printer.settings.tmin ≤ p.printer.settings.tmax ∧
    p.printer.settings.tmax ≤ 2500
  base : 100 ≤ p.printer.strobe ∧ p.printer.strobe ≤ 2000
  ribbon : p.printer.ribbon ≤ 4000000
  head : p.thermal.limits.head.legal
  ambient : p.thermal.limits.ambient.legal
  bay : p.thermal.limits.bay.legal

end Machine

end Sys2Proof
end

