-- ==== Sys2Proof/Certificates/Slice0/Obligations.lean ====
section
/-!
DEFINITION. What the provers are asked to prove. The cited rules are those of spec/; `Completes`, `Happens` and the
other terms are in Sys2Proof/Safety.lean.
-/

open Sys2Proof Sys2Proof.Machine

/-! ## The queue and the clock -/

/-- The model's own form (log entry 2): a step runs the command at the front of the queue on the state with the
queue's rest. -/
def Obligations.StepTakesTheFront : Prop :=
  ∀ (c : Instr) (rest : List Instr) (s : State), s.pending = c :: rest → step s = exec c { s with pending := rest }

/-- The model's own choice (log entry 1): on an empty queue 1 ms passes. Every running timer falls by 1 ms and stops
at 0, the cooling gap falls by 1,000 µs; nothing else changes, and a part held in tower reset does not change at all.
-/
def Obligations.EmptyQueueLetsTimePass : Prop :=
  ∀ s : State, s.pending = [] →
    ∃ t, step s = .next t ∧ KeepsOutside s t ∧ t.ports = s.ports ∧
      (s.part.held = true → t.part = s.part) ∧
      (s.part.held = false →
        (∀ b : BayNum, t.part.bays[b] = { s.part.bays[b] with
          housekeeping := s.part.bays[b].housekeeping.map (· - 1), probe := s.part.bays[b].probe.map (· - 1) }) ∧
        t.part.bus = { s.part.bus with
          pause := s.part.bus.pause.map (· - 1), holdOff := s.part.bus.holdOff.map (· - 1) } ∧
        (∀ n : SessionNum, t.part.engine.sessions[n] = s.part.engine.sessions[n].map fun x => { x with
          gather := x.gather.map (· - 1), prepare := x.prepare.map (· - 1), stall := x.stall.map (· - 1),
          close := x.close.map (· - 1) }) ∧
        (∀ k : PlaceNum, t.part.verifier.places[k] = s.part.verifier.places[k].map fun x => { x with
          silence := x.silence.map (· - 1) }) ∧
        t.part.printer = { s.part.printer with
          hot := s.part.printer.hot.map (· - 1), gap := s.part.printer.gap.map (· - 1000) } ∧
        t.part.thermal.head = { s.part.thermal.head with timer := s.part.thermal.head.timer.map (· - 1) } ∧
        t.part.thermal.ambient = { s.part.thermal.ambient with timer := s.part.thermal.ambient.timer.map (· - 1) } ∧
        t.part = { s.part with
          bays := t.part.bays, bus := t.part.bus, printer := t.part.printer,
          engine := { s.part.engine with sessions := t.part.engine.sessions },
          verifier := { s.part.verifier with places := t.part.verifier.places },
          thermal := { s.part.thermal with head := t.part.thermal.head, ambient := t.part.thermal.ambient } })

/-! ## Frames -/

/-- R195 and R196: while the part is held in tower reset it takes no frame and does no work: every command but the two
of the RESET pin goes on and leaves the part, the ports and image memory as they were, and the data outputs LnD2 and
LnD3 are released. Out of the reset they give the four pairs of bits of each byte clocked out, most significant first
(R185). A frame whose select straddles the leaving of the reset is not taken and forms no response: no byte of it is
taken, and only the straddling of its port ends, also where the select rises without a whole byte. Such a select is
ignored on a link where none straddles (R185). (That the straddling frame clocks out nothing is the model's reading,
log entry 11.) -/
def Obligations.ResetHoldsFramesOff : Prop :=
  (∀ (c : Instr) (s : State), s.part.held = true → c.isReset = false →
     ∃ t, exec c s = .next t ∧ t.pending = s.pending ∧ KeepsMemory s t ∧ t.ports = s.ports ∧ t.part = s.part) ∧
  (∀ (l : Link) (s : State),
     (s.part.held = true → dataOutputs s l = none) ∧
     (s.part.held = false → dataOutputs s l = some (s.ports[l].clockedOut.flatMap fun b =>
       [b.extractLsb' 6 2, b.extractLsb' 4 2, b.extractLsb' 2 2, b.extractLsb' 0 2]))) ∧
  (∀ (c : Instr) (l : Link) (s : State), c.linkOf = some l → s.part.held = false → s.ports[l].straddling = true →
     ∃ t, exec c s = .next t ∧ t.pending = s.pending ∧ KeepsMemory s t ∧ t.part = s.part ∧
       t.ports[l] = { s.ports[l] with clockedOut := [], straddling := false } ∧
       ∀ m : Link, m ≠ l → t.ports[m] = s.ports[m]) ∧
  ∀ (l : Link) (pins : Pins), frameCommand l pins [] = some (.discardedFrame l []) ∧
    ∀ s : State, LinkOpen l s → exec (.discardedFrame l []) s = .next s

/-- The bytes that a master clocks for a command (10.2, 12.1, 12.3) are judged to be that command again, with every
operand: the payload, slot, index, data and fill of a taken frame, the byte of a summary read, the bytes of a
discarded frame, none of a select without a byte. -/
def Obligations.FramesReadBack : Prop :=
  ∀ (i : Instr) (l : Link) (pins : Pins) (bytes : List Byte), i.wellFormed = true → i.linkOf = some l →
    i.switchesAgree pins → frameOf i = some bytes → frameCommand l pins bytes = some i

/-- 10.1, 10.2 and R188. A frame that its checks take is, byte for byte, the frame of 12.1 for the code, payload,
slot, index and data read from it, with fill behind it. A frame that is discarded leaves its response pending and has
no other effect. UNKNOWN: the first byte is no command code. SHORT: a command frame of fewer than 3 bytes, or of fewer
than 5 + L with L up to 240, or a bulk frame of fewer than 65,546. CRC_FAULT: a length L above 240, or a whole frame
whose check differs. And a taken command whose payload has not the length that 12.3 gives it is refused with RANGE and
changes nothing (the two that read switches read them); NULL alone takes any payload. -/
def Obligations.FramesAreJudged : Prop :=
  (∀ bytes : List Byte,
     (∀ (code : Nat) (p : List Byte), judgeFrame bytes = .command code p →
       p.length ≤ 240 ∧ code ≤ 38 ∧ code ≠ 2 ∧ ∃ fill, bytes = commandFrame code p ++ fill) ∧
     (∀ (slot : Byte) (index : BitVec 32) (data : List Byte), judgeFrame bytes = .bulk slot index data →
       data.length = 65536 ∧ ∃ fill, bytes = bulkFrame slot index data ++ fill)) ∧
  (∀ (l : Link) (c b0 : Byte) (rest : List Byte) (s : State), LinkOpen l s →
     let bytes := c :: b0 :: rest
     let gives := fun r => CompletesIn (.discardedFrame l bytes) l bytes.length s r s.part
     (38 < c.toNat → gives .unknown) ∧
     (c.toNat ≤ 38 → c.toNat ≠ 2 → rest = [] → gives .short) ∧
     (c.toNat ≤ 38 → c.toNat ≠ 2 → ∀ b1 body, rest = b1 :: body →
       (240 < num16 b0 b1 → gives .crcFault) ∧
       (num16 b0 b1 ≤ 240 → bytes.length < 5 + num16 b0 b1 → gives .short) ∧
       (num16 b0 b1 ≤ 240 → 5 + num16 b0 b1 ≤ bytes.length →
         (body.drop (num16 b0 b1)).take 2 ≠ le16 (crc16 (bytes.take (3 + num16 b0 b1))).toNat → gives .crcFault)) ∧
     (c.toNat = 2 → bytes.length < 65546 → gives .short) ∧
     (c.toNat = 2 → 65546 ≤ bytes.length →
       (bytes.drop 65542).take 4 ≠ le32 (crc32 (bytes.take 65542)).toNat → gives .crcFault)) ∧
  (∀ (l : Link) (payload : List Byte) (fill : Nat) (s : State), LinkOpen l s → payload.length ≤ 240 →
     let needs := fun (i : Link → List Byte → Nat → Instr) (n : Nat) =>
       payload.length ≠ n → Completes i l payload fill s (.refused .range []) s.part
     let refused := fun (i : Instr) (pins : Pins) => ∃ t, exec i s = .next t ∧ t.pending = s.pending ∧ t.pins = pins ∧
       KeepsMemory s t ∧ AnsweredWith l (5 + payload.length + fill) (.refused .range []) s t ∧ t.part = s.part
     (needs .imageOpen 5 ∧ needs .imageFreeze 1 ∧ needs .imageRetire 1 ∧ needs .imageThaw 1 ∧ needs .imageStatus 1) ∧
     (needs .jobDefine 13 ∧ needs .jobAmend 14 ∧ needs .jobQueue 1 ∧ needs .jobHalt 1 ∧ needs .jobResume 1 ∧
       needs .jobCancel 1 ∧ needs .jobRemove 1 ∧ needs .jobStatus 1) ∧
     (needs .moveNext 0 ∧ needs .moveDone 3 ∧ needs .moveFailedNoDisc 3 ∧ needs .moveFailedDropped 3 ∧
       needs .moveFailedJam 3 ∧ needs .flowResume 0 ∧ needs .spindleReport 3 ∧ needs .binReport 2 ∧
       needs .discRead 2) ∧
     (needs .bayEnable 1 ∧ needs .bayDisable 1 ∧ needs .bayStatus 1 ∧ needs .burnSettings 4 ∧ needs .sessionStatus 1 ∧
       needs .verifyLimits 6 ∧ needs .verifyStatus 0 ∧ needs .printSettings 15 ∧ needs .thermalLimits 12 ∧
       needs .thermalRead 0) ∧
     (needs .linkReset 0 ∧ needs .eventsRead 0 ∧ needs .eventsClear 2 ∧ needs .eventsMask 2) ∧
     (1 < payload.length → Completes .resultsRead l payload fill s (.refused .range []) s.part) ∧
     ∀ broken tray : Bool,
       (payload.length ≠ 6 → refused (.ribbonLoaded l payload fill broken) { s.pins with breakShown := broken }) ∧
       (payload ≠ [] → refused (.printerStatus l payload fill broken tray)
         { s.pins with breakShown := broken, trayShown := tray }))

/-- R192: a summary read clocks out the summary byte alone, takes no command, leaves the pending response as it was
and sets no flag, whatever byte the master clocks in. And what each bit of that byte says (10.5, 12.1), bit 7 being
the condition of the attention line (R199). -/
def Obligations.SummaryReadShowsTheByte : Prop :=
  (∀ (l : Link) (sent : Byte) (s : State), LinkOpen l s →
     ∃ t, exec (.summaryRead l sent) s = .next t ∧ KeepsOutside s t ∧ t.part = s.part ∧
       t.ports[l] = { s.ports[l] with clockedOut := [summaryByte s.part l] } ∧
       ∀ m : Link, m ≠ l → t.ports[m] = s.ports[m]) ∧
  (∀ (p : Part) (l : Link),
     ((summaryByte p l).getLsbD 7 = true ↔
       p.held = false ∧ ∃ i, i < 14 ∧ p.links[l].flags.getLsbD i = true ∧ p.links[l].mask.getLsbD i = true) ∧
     ((summaryByte p l).getLsbD 6 = true ↔ p.flow.issued.isSome = true ∨ ∃ o ∈ p.flow.queue, eligible p o = true) ∧
     ((summaryByte p l).getLsbD 5 = true ↔ 0 < p.links[l].unread) ∧
     ((summaryByte p l).getLsbD 4 = true ↔ p.links[l].flags.getLsbD 0 = true) ∧
     ((summaryByte p l).getLsbD 3 = true ↔ p.flow.held = true) ∧
     ((summaryByte p l).getLsbD 2 = true ↔ p.strap = true) ∧
     ((summaryByte p l).getLsbD 1 = true ↔ p.printer.state = .pausedHot ∨ p.printer.state = .pausedRibbon) ∧
     ((summaryByte p l).getLsbD 0 = true ↔
       ∃ (j : JobNum) (x : Job), p.jobs[j] = some x ∧ (x.state = .halting ∨ x.state = .cancelling)))

/-- R193 and 10.3: a NULL of any payload does nothing and leaves IDLE pending, and during its frame the part clocks
out the summary byte, then the response that was pending (code, reason when refused, length, payload, CRC-16), then
00h. -/
def Obligations.NullCollectsTheResponse : Prop :=
  ∀ (l : Link) (payload : List Byte) (fill : Nat) (s : State), LinkOpen l s → payload.length ≤ 240 →
    Completes .nullCommand l payload fill s .idle s.part ∧
    ∃ t, exec (.nullCommand l payload fill) s = .next t ∧
      let n := 5 + payload.length + fill
      let r := s.ports[l].response
      let body := byte r.code :: r.reasonBytes ++ le16 r.payload.length ++ r.payload
      t.ports[l].clockedOut =
        (summaryByte s.part l :: body ++ le16 (crc16 body).toNat ++ List.replicate n 0).take n

/-- 10.7: LINK RESET clears every flag of its own link, enables every flag in its mask, leaves it nothing unread and
FIRST pending, and changes nothing else; with a payload it is refused with RANGE and resets nothing. -/
def Obligations.LinkResetActsOnOneLink : Prop :=
  ∀ (l : Link) (fill : Nat) (s : State), LinkOpen l s →
    Completes .linkReset l [] fill s .first { s.part with links := put s.part.links l ⟨0, BitVec.allOnes 14, 0⟩ } ∧
    ∀ payload : List Byte, payload ≠ [] → payload.length ≤ 240 →
      Completes .linkReset l payload fill s (.refused .range []) s.part

/-! ## Events and the results ring -/

/-- R200: EVENTS READ answers with the link's flags, its mask and its unread count, and changes nothing. -/
def Obligations.EventsReadShowsTheLink : Prop :=
  ∀ (l : Link) (fill : Nat) (s : State), LinkOpen l s →
    Completes .eventsRead l [] fill s
      (.done (le16 s.part.links[l].flags.toNat ++ le16 s.part.links[l].mask.toNat ++ [byte s.part.links[l].unread]))
      s.part

/-- 11.3: EVENTS CLEAR clears the flags it names in its own link and answers with the flags before and after; EVENTS
MASK makes the set given the link's mask and answers with it and the flags; a set with bit 14 or 15 is refused with
RANGE by both and changes nothing. -/
def Obligations.EventsClearAndMask : Prop :=
  ∀ (l : Link) (fill : Nat) (s : State), LinkOpen l s →
    (∀ x : FlagSet,
      let e := s.part.links[l]
      Completes .eventsClear l (le16 x.toNat) fill s
        (.done (le16 e.flags.toNat ++ le16 (e.flags &&& ~~~x).toNat))
        { s.part with links := put s.part.links l { e with flags := e.flags &&& ~~~x } } ∧
      Completes .eventsMask l (le16 x.toNat) fill s (.done (le16 x.toNat ++ le16 e.flags.toNat))
        { s.part with links := put s.part.links l { e with mask := x } }) ∧
    ∀ b0 b1 : Byte, b1.getLsbD 6 = true ∨ b1.getLsbD 7 = true →
      Completes .eventsClear l [b0, b1] fill s (.refused .range []) s.part ∧
      Completes .eventsMask l [b0, b1] fill s (.refused .range []) s.part

/-- 11.4 to 11.6: an append joins the ring at its newest end, a ring of 64 dropping its oldest entry, and is unread in
every link; a link whose 64 entries were all unread keeps the count 64 and has RESULTS_OVERRUN set. RESULTS READ
returns the oldest unread entries, as many as asked for (8 if the count is left out) or as there are, and moves its
own link's cursor past them; a count of 0, or above 8, is refused with RANGE and moves nothing. -/
def Obligations.ResultsRingServesEachLink : Prop :=
  (∀ (p : Part) (x : ResultEntry), p.ring.length ≤ 64 →
     (appendResult x p).ring = (if p.ring.length = 64 then p.ring.drop 1 else p.ring) ++ [x] ∧
     (∀ l : Link,
       let e := p.links[l]
       (appendResult x p).links[l] =
         if p.ring.length = 64 ∧ 64 ≤ e.unread then ⟨e.flags ||| BitVec.twoPow 14 13, e.mask, 64⟩
         else { e with unread := e.unread + 1 }) ∧
     appendResult x p = { p with ring := (appendResult x p).ring, links := (appendResult x p).links }) ∧
  (∀ (l : Link) (fill : Nat) (s : State), LinkOpen l s →
     let unread := s.part.links[l].unread
     let gives := fun payload n =>
       let got := (s.part.ring.drop (s.part.ring.length - unread)).take n
       Completes .resultsRead l payload fill s
         (.done (byte got.length :: got.flatMap resultBytes ++ [byte (unread - got.length)]))
         { s.part with links := put s.part.links l { s.part.links[l] with unread := unread - got.length } }
     gives [] 8 ∧ gives [0xFF#8] 8 ∧ (∀ n : Nat, 1 ≤ n → n ≤ 8 → gives [byte n] n) ∧
     ∀ b : Byte, b ≠ 0xFF#8 → (b = 0#8 ∨ 8 < b.toNat) →
       Completes .resultsRead l [b] fill s (.refused .range []) s.part)

/-- R197 and R202, over every command: a flag that is set stays set, and the mask stays as it is, but for the commands
that clear or set them on that link and for a tower reset. -/
def Obligations.FlagsAndMasksStay : Prop :=
  ∀ (c : Instr) (s t : State) (l : Link), c.endsEventsOf l = false → exec c s = .next t →
    (∀ i, s.part.links[l].flags.getLsbD i = true → t.part.links[l].flags.getLsbD i = true) ∧
    t.part.links[l].mask = s.part.links[l].mask

/-! ## Image store -/

/-- R2 and R5: IMAGE OPEN of a kind and length in range takes the lowest EMPTY slot and the lowest run of free chunks
long enough, makes the slot FILLING with an empty record and sets IMAGE; it answers with slot, first chunk and count.
What refuses it, in order, changing nothing: a payload that does not fit its layout, an unknown kind or a length out
of range (RANGE), no EMPTY slot (TABLE_FULL), no run long enough (NO_SPACE). -/
def Obligations.ImageOpenTakesTheFirstFit : Prop :=
  (∀ (l : Link) (k : ImageKind) (length : Nat) (fill : Nat) (n : SlotNum) (c : Nat) (s : State), LinkOpen l s →
     (k = .disc → 1 ≤ length ∧ length ≤ 16777216) → (k = .label → 1 ≤ length ∧ length ≤ 1440) →
     let count := if k = .disc then ((length + 31) / 32 + 31) / 32 else 1
     let free := fun a => ∀ (m : SlotNum) (x : Slot), s.part.slots[m] = some x →
       x.first + x.chunkCount ≤ a ∨ a + count ≤ x.first
     s.part.slots[n] = none → (∀ m : SlotNum, m < n → s.part.slots[m] ≠ none) →
     c + count ≤ 16384 → free c → (∀ a, a < c → ¬ free a) →
     Completes .imageOpen l (byte k.code :: le32 length) fill s (.done (byte n.val :: le16 c ++ le16 count))
       (raise .image { s.part with
         slots := put s.part.slots n (some ⟨k, .filling, length, 0, c, 0, some 0xFFFFFFFF#32, [], none⟩) })) ∧
  (∀ (l : Link) (payload : List Byte) (fill : Nat) (s : State), LinkOpen l s → payload.length ≤ 240 →
     let refusedWith := fun r => Completes .imageOpen l payload fill s (.refused r []) s.part
     (payload.length ≠ 5 → refusedWith .range) ∧
     ∀ k l0 l1 l2 l3 : Byte, payload = [k, l0, l1, l2, l3] →
       let length := num32 l0 l1 l2 l3
       (1 < k.toNat → refusedWith .range) ∧ (length = 0 → refusedWith .range) ∧
       (k = 0#8 → 16777216 < length → refusedWith .range) ∧ (k = 1#8 → 1440 < length → refusedWith .range) ∧
       ((k = 0#8 ∧ 1 ≤ length ∧ length ≤ 16777216) ∨ (k = 1#8 ∧ 1 ≤ length ∧ length ≤ 1440) →
         let count := if k = 0#8 then ((length + 31) / 32 + 31) / 32 else 1
         ((∀ n : SlotNum, s.part.slots[n] ≠ none) → refusedWith .tableFull) ∧
         ((∃ n : SlotNum, s.part.slots[n] = none) →
           (∀ a, a + count ≤ 16384 → ∃ (m : SlotNum) (x : Slot), s.part.slots[m] = some x ∧
             a < x.first + x.chunkCount ∧ x.first < a + count) → refusedWith .noSpace)))

/-- R6 to R8: an IMAGE WRITE of the block at the fill cursor stores the bytes that lie within the image at the block's
place, and no other byte; it advances the running chunk CRC by them and the cursor by one, and ends the chunk's digest
at its 32nd or the image's last block. A refused one stores no byte and changes no slot; FROZEN sets PROTECT, and
SEQUENCE carries the fill cursor and the block count. -/
def Obligations.ImageWriteStoresTheBlock : Prop :=
  (∀ (l : Link) (k : SlotNum) (x : Slot) (c : Crc32) (index : BitVec 32) (data : List Byte) (fill : Nat) (s : State),
     LinkOpen l s → s.part.slots[k] = some x → x.state = .filling → x.crc = some c → x.fill < x.blockCount →
     index.toNat = x.fill → x.first + x.chunkCount ≤ 16384 → data.length = 65536 →
     let last := x.fill + 1 = x.blockCount
     let imageBytes := match x.kind with
       | .disc => 2048 * x.length
       | .label => 180 * x.length
     let n := if last then imageBytes - 65536 * x.fill else 65536
     let a := (x.first + x.fill / 32) * 2097152 + x.fill % 32 * 65536
     let crc := crc32Feed c (data.take n)
     let y := { x with
       fill := x.fill + 1
       digests := if x.fill % 32 = 31 ∨ last then x.digests ++ [crc32Finish crc] else x.digests
       crc := if last then none else if x.fill % 32 = 31 then some 0xFFFFFFFF#32 else some crc }
     ∃ t, exec (.imageWrite l (byte k.val) index data fill) s = .next t ∧
       t.pending = s.pending ∧ t.pins = s.pins ∧
       AnsweredWith l (65546 + fill) (.done (byte k.val :: le32 (x.fill + 1))) s t ∧
       t.part = { s.part with slots := put s.part.slots k (some y) } ∧
       (∀ i, i < n → readByte t.mem (a + i) = data.getD i 0) ∧
       ∀ b, b < a ∨ a + n ≤ b → readByte t.mem b = readByte s.mem b) ∧
  (∀ (l : Link) (slot : Byte) (index : BitVec 32) (data : List Byte) (fill : Nat) (s : State),
     LinkOpen l s → data.length = 65536 →
     let gives := CompletesIn (.imageWrite l slot index data fill) l (65546 + fill) s
     (7 < slot.toNat → gives (.refused .range []) s.part) ∧
     ∀ k : SlotNum, slot.toNat = k.val →
       (s.part.slots[k] = none → gives (.refused .state []) s.part) ∧
       ∀ x : Slot, s.part.slots[k] = some x →
         (x.state = .frozen ∨ x.state = .retiring → gives (.refused .frozen []) (raise .protect s.part)) ∧
         (x.state = .filling → x.fill = x.blockCount ∨ index.toNat ≠ x.fill →
           gives (.refused .sequence (le32 x.fill ++ le32 x.blockCount)) s.part))

/-- R10, R11, R14, R16 and R17: IMAGE FREEZE of a complete fill gives the image digest; IMAGE RETIRE empties a slot or
makes it RETIRING while jobs name it; IMAGE THAW under the strap of an unused FROZEN slot makes it FILLING with the
cursor at the block count. Each sets IMAGE, and in every other state is refused for the first reason that applies and
changes no slot. IMAGE STATUS answers with the slot's record. A slot above 7 is refused with RANGE. -/
def Obligations.ImageFreezeRetireThaw : Prop :=
  (∀ (l : Link) (k : SlotNum) (fill : Nat) (s : State), LinkOpen l s →
     let freezes := Completes .imageFreeze l [byte k.val] fill s
     let retires := Completes .imageRetire l [byte k.val] fill s
     (s.part.slots[k] = none → freezes (.refused .state []) s.part ∧ retires (.refused .state []) s.part) ∧
     ∀ x : Slot, s.part.slots[k] = some x →
       (x.state = .filling →
         let d := crc32 (x.digests.flatMap fun d => le32 d.toNat)
         (x.fill = x.blockCount → freezes (.done (le32 d.toNat))
           (raise .image { s.part with
             slots := put s.part.slots k (some { x with state := .frozen, digest := some d }) })) ∧
         (x.fill < x.blockCount →
           freezes (.refused .sequence (le32 x.fill ++ le32 x.blockCount)) s.part) ∧
         retires (.done [0]) (raise .image { s.part with slots := put s.part.slots k none })) ∧
       (x.state = .frozen → freezes (.refused .state []) s.part ∧
         (x.refs = 0 → retires (.done [0]) (raise .image { s.part with slots := put s.part.slots k none })) ∧
         (0 < x.refs → retires (.done [3])
           (raise .image { s.part with slots := put s.part.slots k (some { x with state := .retiring }) }))) ∧
       (x.state = .retiring → freezes (.refused .state []) s.part ∧ retires (.refused .state []) s.part)) ∧
  (∀ (l : Link) (fill : Nat) (s : State), LinkOpen l s →
     (∀ b : Byte, 7 < b.toNat →
       let refused := fun i => Completes i l [b] fill s (.refused .range []) s.part
       refused .imageFreeze ∧ refused .imageRetire ∧ refused .imageThaw ∧ refused .imageStatus) ∧
     ∀ k : SlotNum,
       let thaws := Completes .imageThaw l [byte k.val] fill s
       Completes .imageStatus l [byte k.val] fill s (.done (slotRecord k s.part.slots[k])) s.part ∧
       (s.part.strap = false → thaws (.refused .notService []) (raise .protect s.part)) ∧
       (s.part.strap = true →
         (s.part.slots[k] = none → thaws (.refused .state []) s.part) ∧
         ∀ x : Slot, s.part.slots[k] = some x →
           (x.state ≠ .frozen → thaws (.refused .state []) s.part) ∧
           (x.state = .frozen → 0 < x.refs → thaws (.refused .inUse []) s.part) ∧
           (x.state = .frozen → x.refs = 0 → thaws (.done []) (raise .image { s.part with
             slots := put s.part.slots k (some { x with
               state := .filling, fill := x.blockCount, crc := none, digest := none }) }))))

/-- R3, R7 and R18. A DISC image of L sectors has L / 32 blocks, rounded up, and a chunk for each 32 of them, rounded
up; its last block n - 1 holds L - 32 (n - 1) sectors of 2,048 bytes. A LABEL image of L lines has 180 L / 65,536
blocks, rounded up, and one chunk; its last block holds the bytes of 180 L that are left. Every other block is full.
A block that a fill has stored is served as it was sent, with zeros beyond the image, whatever memory held before. -/
def Obligations.StoredBlockReadsBack : Prop :=
  (∀ x : Slot,
    let n := x.blockCount
    (x.kind = .disc → n = (x.length + 31) / 32 ∧ x.chunkCount = (n + 31) / 32 ∧
      (0 < x.length → x.bytesIn (n - 1) = 2048 * (x.length - 32 * (n - 1)))) ∧
    (x.kind = .label → n = (180 * x.length + 65535) / 65536 ∧ x.chunkCount = 1 ∧
      (0 < x.length → x.bytesIn (n - 1) = 180 * x.length - 65536 * (n - 1))) ∧
    ∀ b, b + 1 < n → x.bytesIn b = 65536) ∧
  ∀ (m : List Host.Cell) (x : Slot) (b : Nat) (data : List Byte), Memory.wf m → data.length = 65536 →
    b < x.blockCount →
    let n := x.bytesIn b
    n ≤ 65536 ∧
      imageBlock (writeBytes m (x.blockAddress b) (data.take n)) x b = data.take n ++ List.replicate (65536 - n) 0

/-! ## Jobs -/

/-- R23 and R25: a JOB DEFINE whose slot, media and copy target are given takes the lowest free record as a DRAFT with
counters 0. Fields left out take their defaults, numeric fields are clamped to their ranges (DONE_CLAMPED if any was),
and a grade limit is held exactly under GRADED. JOB is set. What refuses it, changing nothing: a payload that is not
13 bytes, a slot, media or target not given, a name or slot number not in its list (RANGE), then no free record
(TABLE_FULL). -/
def Obligations.JobDefineDrafts : Prop :=
  (∀ (l : Link) (slot : SlotNum) (media : Media) (t0 t1 ss sp sa tr r0 r1 : Byte) (mode : Option VerifyMode)
     (limit : Option Grade) (label : Option SlotNum) (j : JobNum) (fill : Nat) (s : State), LinkOpen l s →
     num16 t0 t1 ≠ 65535 → s.part.jobs[j] = none → (∀ i : JobNum, i < j → s.part.jobs[i] ≠ none) →
     let target := clampNat 1 9999 (num16 t0 t1)
     let setSize := if ss = 0xFF#8 then 10 else clampNat 1 10 ss.toNat
     let speed := if sp = 0xFF#8 then 0 else clampNat 0 48 sp.toNat
     let allowance := if sa = 0xFF#8 then 2 else clampNat 0 15 sa.toNat
     let trim := if tr = 0x80#8 then 0 else clampInt (-8) 7 tr.toInt
     let rejects := if num16 r0 r1 = 65535 then 20 else clampNat 0 255 (num16 r0 r1)
     let grade := if mode = some .graded then some (limit.getD .c) else none
     let clamped := target ≠ num16 t0 t1 ∨ (ss ≠ 0xFF#8 ∧ setSize ≠ ss.toNat) ∨ (sp ≠ 0xFF#8 ∧ speed ≠ sp.toNat) ∨
       (sa ≠ 0xFF#8 ∧ allowance ≠ sa.toNat) ∨ (tr ≠ 0x80#8 ∧ trim ≠ tr.toInt) ∨
       (num16 r0 r1 ≠ 65535 ∧ rejects ≠ num16 r0 r1)
     Completes .jobDefine l
       [byte slot.val, byte media.code, t0, t1, ss, sp, mode.elim 0xFF#8 (byte ·.code),
         limit.elim 0xFF#8 (byte ·.rank), sa, label.elim 0xFF#8 (byte ·.val), tr, r0, r1]
       fill s (if clamped then .doneClamped [byte j.val] else .done [byte j.val])
       (raise .job { s.part with jobs := put s.part.jobs j (some
         ⟨.draft, ⟨slot, media, target, setSize, speed, mode.getD .digest, grade, allowance, label, trim, rejects⟩,
           0, 0, 0, none⟩) })) ∧
  (∀ (l : Link) (payload : List Byte) (fill : Nat) (s : State), LinkOpen l s → payload.length ≤ 240 →
     let refusedWith := fun r => Completes .jobDefine l payload fill s (.refused r []) s.part
     (payload.length ≠ 13 → refusedWith .range) ∧
     ∀ ds m t0 t1 ss sp v g sa lb tr r0 r1 : Byte, payload = [ds, m, t0, t1, ss, sp, v, g, sa, lb, tr, r0, r1] →
       let bad := 7 < ds.toNat ∨ 2 < m.toNat ∨ num16 t0 t1 = 65535 ∨ (2 < v.toNat ∧ v ≠ 0xFF#8) ∨
         (3 < g.toNat ∧ g ≠ 0xFF#8) ∨ (7 < lb.toNat ∧ lb ≠ 0xFF#8)
       (bad → refusedWith .range) ∧
       (¬ bad → (∀ j : JobNum, s.part.jobs[j] ≠ none) → refusedWith .tableFull))

/-- R25 and R26: JOB AMEND of a DRAFT writes each field it carries, clamped to its range, and leaves the others as they
were; the grade limit is held exactly while the mode is GRADED, and is C if none is given or held. The definition byte
by byte in the order of 12.3, each field left out by its marker (R208); in the label slot's byte FFh leaves the slot as
it was, FEh makes it absent and 0 to 7 sets it. A job in another state is refused with STATE, and a name or a slot
number not in its list with RANGE, changing nothing. -/
def Obligations.JobAmendSettles : Prop :=
  (∀ (l : Link) (j : JobNum) (x : Job) (bytes : List Byte) (fill : Nat) (s : State), LinkOpen l s →
     s.part.jobs[j] = some x → bytes.length = 13 → x.state ≠ .draft →
     Completes .jobAmend l (byte j.val :: bytes) fill s (.refused .state []) s.part) ∧
  (∀ (l : Link) (j : JobNum) (x : Job) (ds m t0 t1 ss sp v g sa lb tr r0 r1 : Byte) (fill : Nat) (s : State),
     LinkOpen l s → s.part.jobs[j] = some x → x.state = .draft →
     (7 < ds.toNat ∧ ds ≠ 0xFF#8) ∨ (2 < m.toNat ∧ m ≠ 0xFF#8) ∨ (2 < v.toNat ∧ v ≠ 0xFF#8) ∨
       (3 < g.toNat ∧ g ≠ 0xFF#8) ∨ (7 < lb.toNat ∧ lb ≠ 0xFE#8 ∧ lb ≠ 0xFF#8) →
     Completes .jobAmend l [byte j.val, ds, m, t0, t1, ss, sp, v, g, sa, lb, tr, r0, r1] fill s
       (.refused .range []) s.part) ∧
  ∀ (l : Link) (j : JobNum) (x : Job) (slot : Option SlotNum) (media : Option Media) (mode : Option VerifyMode)
     (limit : Option Grade) (t0 t1 ss sp sa lb tr r0 r1 : Byte) (fill : Nat) (s : State), LinkOpen l s →
     s.part.jobs[j] = some x → x.state = .draft →
     let old := x.defn
     let target := if num16 t0 t1 = 65535 then old.target else clampNat 1 9999 (num16 t0 t1)
     let setSize := if ss = 0xFF#8 then old.setSize else clampNat 1 10 ss.toNat
     let speed := if sp = 0xFF#8 then old.speed else clampNat 0 48 sp.toNat
     let verify := mode.getD old.verify
     let grade := if verify = .graded then some (limit.getD (old.gradeLimit.getD .c)) else none
     let allowance := if sa = 0xFF#8 then old.stallAllowance else clampNat 0 15 sa.toNat
     let trim := if tr = 0x80#8 then old.trim else clampInt (-8) 7 tr.toInt
     let rejects := if num16 r0 r1 = 65535 then old.rejectLimit else clampNat 0 255 (num16 r0 r1)
     let clamped := (num16 t0 t1 ≠ 65535 ∧ target ≠ num16 t0 t1) ∨ (ss ≠ 0xFF#8 ∧ setSize ≠ ss.toNat) ∨
       (sp ≠ 0xFF#8 ∧ speed ≠ sp.toNat) ∨ (sa ≠ 0xFF#8 ∧ allowance ≠ sa.toNat) ∨
       (tr ≠ 0x80#8 ∧ trim ≠ tr.toInt) ∨ (num16 r0 r1 ≠ 65535 ∧ rejects ≠ num16 r0 r1)
     let leaves := fun labelSlot : Option SlotNum =>
       Completes .jobAmend l
         [byte j.val, slot.elim 0xFF#8 (byte ·.val), media.elim 0xFF#8 (byte ·.code), t0, t1, ss, sp,
           mode.elim 0xFF#8 (byte ·.code), limit.elim 0xFF#8 (byte ·.rank), sa, lb, tr, r0, r1]
         fill s (if clamped then .doneClamped [] else .done [])
         { s.part with jobs := put s.part.jobs j (some { x with defn :=
           ⟨slot.getD old.discSlot, media.getD old.media, target, setSize, speed, verify, grade, allowance, labelSlot,
             trim, rejects⟩ }) }
     (lb = 0xFF#8 → leaves old.labelSlot) ∧ (lb = 0xFE#8 → leaves none) ∧
       ∀ n : SlotNum, lb = byte n.val → leaves (some n)

/-- R24: every job command but JOB DEFINE is refused with RANGE if it names a number above 11 and with STATE if the
record it names is free, whatever its other fields; these refusals change nothing. -/
def Obligations.JobNumberIsChecked : Prop :=
  ∀ (l : Link) (b : Byte) (bytes : List Byte) (fill : Nat) (s : State), LinkOpen l s → bytes.length = 13 →
    let allRefused := fun r =>
      Completes .jobAmend l (b :: bytes) fill s (.refused r []) s.part ∧
      Completes .jobQueue l [b] fill s (.refused r []) s.part ∧
      Completes .jobHalt l [b] fill s (.refused r []) s.part ∧
      Completes .jobResume l [b] fill s (.refused r []) s.part ∧
      Completes .jobCancel l [b] fill s (.refused r []) s.part ∧
      Completes .jobRemove l [b] fill s (.refused r []) s.part ∧
      Completes .jobStatus l [b] fill s (.refused r []) s.part
    (11 < b.toNat → allRefused .range) ∧
    ∀ j : JobNum, b = byte j.val → s.part.jobs[j] = none → allRefused .state

/-- R27: JOB QUEUE of a DRAFT on FROZEN slots of the right kinds whose image fits the media takes a reference on each
slot, appends the job to the run list as QUEUED, and admission follows; the answer is the state it leaves. The checks
in their order; a refused job stays DRAFT and takes no reference. -/
def Obligations.JobQueueTakesReferences : Prop :=
  (∀ (l : Link) (j : JobNum) (x : Job) (d : Slot) (label : Option (SlotNum × Slot)) (fill : Nat) (s : State),
     LinkOpen l s → s.part.jobs[j] = some x → x.state = .draft →
     s.part.slots[x.defn.discSlot] = some d → d.kind = .disc → d.state = .frozen →
     (x.defn.media = .cd → d.length ≤ 360000) → (x.defn.media = .dvd → d.length ≤ 2295104) →
     (x.defn.media = .bd → d.length ≤ 12219392) →
     x.defn.labelSlot = label.map Prod.fst →
     (∀ n y, label = some (n, y) → s.part.slots[n] = some y ∧ y.kind = .label ∧ y.state = .frozen) →
     let slots := put s.part.slots x.defn.discSlot (some { d with refs := d.refs + 1 })
     let q := raise .job { s.part with
       jobs := put s.part.jobs j (some { x with state := .queued, haltReason := none })
       slots := match label with
         | none => slots
         | some (n, y) => put slots n (some { y with refs := y.refs + 1 })
       runList := s.part.runList ++ [j] }
     ∃ y, (admitJobs q).jobs[j] = some y ∧ (y.state = .queued ∨ y.state = .running) ∧
       Completes .jobQueue l [byte j.val] fill s (.done [byte y.state.code]) (settle (admitJobs q))) ∧
  (∀ (l : Link) (j : JobNum) (x : Job) (fill : Nat) (s : State), LinkOpen l s → s.part.jobs[j] = some x →
     let refusedWith := fun r => Completes .jobQueue l [byte j.val] fill s (.refused r []) s.part
     let good := fun (k : ImageKind) (n : SlotNum) =>
       ∃ y, s.part.slots[n] = some y ∧ y.kind = k ∧ y.state = .frozen
     let labelGood := ∀ n, x.defn.labelSlot = some n → good .label n
     (x.state ≠ .draft → refusedWith .state) ∧
     (x.state = .draft → ¬ good .disc x.defn.discSlot → refusedWith .notFrozen) ∧
     (x.state = .draft → good .disc x.defn.discSlot → ¬ labelGood → refusedWith .notFrozen) ∧
     ∀ y, x.state = .draft → s.part.slots[x.defn.discSlot] = some y → good .disc x.defn.discSlot → labelGood →
       (x.defn.media = .cd ∧ 360000 < y.length ∨ x.defn.media = .dvd ∧ 2295104 < y.length ∨
         x.defn.media = .bd ∧ 12219392 < y.length) → refusedWith .range)

/-- R29: while fewer than two jobs hold a place, admission makes the earliest QUEUED job of the run list RUNNING, and
sets JOB; it goes on until two places are held or no job of the run list is QUEUED. -/
def Obligations.AdmissionTakesTheEarliest : Prop :=
  (∀ (p : Part) (before after : List JobNum) (j : JobNum) (x : Job), placesHeld p < 2 →
    p.runList = before ++ j :: after → p.jobs[j] = some x → x.state = .queued →
    (∀ i ∈ before, ∀ y, p.jobs[i] = some y → y.state ≠ .queued) →
    admitOne p = raise .job { p with
      jobs := put p.jobs j (some { x with state := .running, haltReason := none }) }) ∧
  ∀ p : Part, 2 ≤ placesHeld (admitJobs p) ∨
    ∀ j ∈ (admitJobs p).runList, ∀ y, (admitJobs p).jobs[j] = some y → y.state ≠ .queued

/-- R34, R35, R39 and R41: JOB HALT and JOB RESUME in each state of the job: the state it enters, with the halt
reason, JOB set, the unissued pick withdrawn and the drain judged on a halt of a RUNNING job, admission after a resume
of a HALTED one, and the answer carrying the state left. JOB REMOVE frees a DRAFT, DONE or CANCELLED record. In the
other states each is refused with STATE. JOB STATUS answers with the record and changes nothing. -/
def Obligations.JobStatesByCommand : Prop :=
  (∀ (l : Link) (j : JobNum) (x : Job) (fill : Nat) (s : State), LinkOpen l s → s.part.jobs[j] = some x →
     let halts := Completes .jobHalt l [byte j.val] fill s
     let resumes := Completes .jobResume l [byte j.val] fill s
     let becomes := fun st why => raise .job { s.part with
       jobs := put s.part.jobs j (some { x with state := st, haltReason := why }) }
     (x.state = .running →
       let q := endDrain j (withdrawPickOf j (becomes .halting (some .operator)))
       ∃ y, q.jobs[j] = some y ∧ (y.state = .halting ∨ y.state = .halted) ∧
         halts (.done [byte y.state.code]) (settle q)) ∧
     (x.state = .queued → halts (.done [4]) (settle (becomes .halted (some .operator)))) ∧
     (x.state ≠ .running → x.state ≠ .queued → halts (.refused .state []) s.part) ∧
     (x.state = .halting → resumes (.done [2]) (settle (becomes .running none))) ∧
     (x.state = .halted →
       let q := admitJobs (becomes .queued none)
       ∃ y, q.jobs[j] = some y ∧ (y.state = .queued ∨ y.state = .running) ∧
         resumes (.done [byte y.state.code]) (settle q)) ∧
     (x.state ≠ .halting → x.state ≠ .halted → resumes (.refused .state []) s.part)) ∧
  (∀ (l : Link) (j : JobNum) (x : Job) (fill : Nat) (s : State), LinkOpen l s → s.part.jobs[j] = some x →
     let removes := Completes .jobRemove l [byte j.val] fill s
     (x.state = .draft ∨ x.state = .done ∨ x.state = .cancelled →
       removes (.done []) (raise .job { s.part with jobs := put s.part.jobs j none })) ∧
     (x.state ≠ .draft → x.state ≠ .done → x.state ≠ .cancelled → removes (.refused .state []) s.part) ∧
     Completes .jobStatus l [byte j.val] fill s (.done (jobRecord s.part j x)) s.part)

/-- R36, R37, R69, R133 and R150: JOB CANCEL completes in each state of the job. DRAFT, QUEUED and HALTED become
CANCELLED at once; RUNNING and HALTING have their discs dealt with, and are left CANCELLING with discs in flight and
CANCELLED with none; the others are refused with STATE. A cancel withdraws the unissued pick, deals with each of the
job's discs, ends the sessions left without members, starts the readbacks there is room for, and ends with nothing in
flight. (The order of these is the model's: log entries 7 and 28.) Disc by disc: what a cancel leaves as it was,
wherever it is, and what it makes FAILED CANCELLED; a PRINT_WAIT disc leaves the wait list, or has its unissued order
replaced, or keeps its issued one. The bay of a LOADED or BURNING disc leaves the waiting bays and its session, with a
CLEAR past GATHERING; that of a VERIFY_WAIT or VERIFYING disc leaves the verify queue and its readback ends, with a
CLEAR if its READBACK was sent (one on the bus is not yet sent: log entry 30). A CLEAR merges with one that waits (log
entry 24). -/
def Obligations.JobCancelDealsWithDiscs : Prop :=
  (∀ (l : Link) (j : JobNum) (x : Job) (fill : Nat) (s : State), LinkOpen l s → s.part.jobs[j] = some x →
     let cancels := Completes .jobCancel l [byte j.val] fill s
     (x.state = .draft → cancels (.done [7]) (raise .job { s.part with
       jobs := put s.part.jobs j (some { x with state := .cancelled, haltReason := none }) })) ∧
     (x.state = .queued ∨ x.state = .halted → cancels (.done [7]) (settle (finishJob j x .cancelled s.part))) ∧
     (x.state = .running ∨ x.state = .halting →
       let q := cancelAdmitted j x s.part
       ∃ y, q.jobs[j] = some y ∧
         (0 < inFlight q j → y.state = .cancelling ∧ cancels (.done [5]) (settle q)) ∧
         (inFlight q j = 0 → y.state = .cancelled ∧ cancels (.done [7]) (settle q))) ∧
     (x.state = .cancelling ∨ x.state = .done ∨ x.state = .cancelled → cancels (.refused .state []) s.part)) ∧
  (∀ (j : JobNum) (x : Job) (p : Part), p.jobs[j] = some x →
     let q := withdrawPickOf j (raise .job { p with
       jobs := put p.jobs j (some { x with state := .cancelling, haltReason := none }) })
     let dealt := (q.flow.discs.filter fun d => d.job = some j).foldl (fun r d => cancelDisc d r) q
     let ended := startReadbacks (reap 3 (reap 2 (reap 1 (reap 0 dealt))))
     ended.jobs[j] = some { x with state := .cancelling, haltReason := none } ∧
       cancelAdmitted j x p = endDrain j ended) ∧
  (∀ (d : Disc) (p : Part),
     d.state = .bound ∨ d.state = .passed ∨ d.state = .printing ∨ d.state = .printed ∨ d.state = .failed →
     cancelDisc d p = p) ∧
  (∀ (d : Disc) (b : BayNum) (p : Part), d.position = .bay b →
     (d.state = .burned → cancelDisc d p = failDisc d .cancelled p) ∧
     (d.state = .loaded ∨ d.state = .burning → cancelDisc d p = cancelInEngine b (failDisc d .cancelled p)) ∧
     (d.state = .verifyWait ∨ d.state = .verifying →
       cancelDisc d p = cancelInVerifier b (failDisc d .cancelled p)) ∧
     (d.state = .printWait →
       (orderOf p d.id = none → cancelDisc d p = failDisc d .cancelled
         { p with flow := { p.flow with waitList := p.flow.waitList.filter (· ≠ d.id) } }) ∧
       ∀ o, orderOf p d.id = some o →
         (p.flow.issued = some o → cancelDisc d p = markFailed d .cancelled p) ∧
         (p.flow.issued ≠ some o → cancelDisc d p = failDisc d .cancelled (dropOrder o p)))) ∧
  (∀ (b : BayNum) (p : Part),
     let q := { p with engine := { p.engine with waiting := p.engine.waiting.filter (· ≠ b) } }
     let joined := fun n => ∃ x, p.engine.sessions[n] = some x ∧ ∃ m ∈ x.members, m.bay = b
     ((∀ n, ¬ joined n) → cancelInEngine b p = q) ∧
     ∀ (n : SessionNum) (x : Session), joined n → (∀ m : SessionNum, m < n → ¬ joined m) →
       p.engine.sessions[n] = some x →
       let left := { q with engine := { q.engine with
         sessions := put p.engine.sessions n (some { x with members := x.members.filter fun m => m.bay ≠ b }) } }
       (x.state = .gathering ∨ .clear b ∈ p.bus.list ++ p.bus.turn.rest → cancelInEngine b p = left) ∧
       (x.state ≠ .gathering → .clear b ∉ p.bus.list ++ p.bus.turn.rest →
         cancelInEngine b p = { left with bus := { p.bus with list := p.bus.list ++ [.clear b] } })) ∧
  (∀ (b : BayNum) (p : Part),
     let q := { p with verifier := { p.verifier with queue := p.verifier.queue.filter (· ≠ b) } }
     let reads := fun k => ∃ r, p.verifier.places[k] = some r ∧ r.bay = b
     ((∀ k, ¬ reads k) → cancelInVerifier b p = q) ∧
     ∀ (k : PlaceNum) (r : Readback), reads k → (∀ i : PlaceNum, i < k → ¬ reads i) → p.verifier.places[k] = some r →
       let gone := busForgetPlace k q
       let left := { gone with verifier := { q.verifier with places := put p.verifier.places k none } }
       (r.sent = false ∨ .clear b ∈ gone.bus.list ++ gone.bus.turn.rest → cancelInVerifier b p = left) ∧
       (r.sent = true → .clear b ∉ gone.bus.list ++ gone.bus.turn.rest →
         cancelInVerifier b p = { left with bus := { gone.bus with list := gone.bus.list ++ [.clear b] } }))

/-- R31 to R34, R38 and R40: what a disc report does to its job's record: the counters, then DONE when a delivery
completes the target, else a halt when a reject reaches the limit, else the end of a halt or a cancel once nothing is
in flight. A job that becomes DONE or CANCELLED loses its halt reason, leaves the run list and gives back its
reference on its disc slot and that on its label slot if it has one, a RETIRING slot at its last reference becoming
EMPTY and setting IMAGE (R16). Admission follows. A halt of a RUNNING job makes it HALTING with its reason, withdraws
its unissued pick, and ends at once with nothing in flight; a drain that ends makes a HALTING job HALTED and a
CANCELLING one CANCELLED. -/
def Obligations.DiscReportsAreCounted : Prop :=
  (∀ (p : Part) (j : JobNum) (x : Job) (c : CounterChange), p.jobs[j] = some x →
     let y := { x with
       picked := x.picked + c.picked, accepted := x.accepted + c.accepted, rejected := x.rejected + c.rejected }
     let q := { p with jobs := put p.jobs j (some y) }
     let completes := 0 < c.accepted ∧ y.accepted = x.defn.target ∧
       (x.state = .running ∨ x.state = .halting ∨ x.state = .cancelling)
     let limited := 0 < c.rejected ∧ x.state = .running ∧ x.defn.rejectLimit ≠ 0 ∧ x.defn.rejectLimit ≤ y.rejected
     (completes → report (some j) c p = finishJob j y .done q) ∧
     (¬ completes → limited → report (some j) c p = haltRunning j y .rejectLimit q) ∧
     (¬ completes → ¬ limited → 0 < inFlight p j → report (some j) c p = q) ∧
     (¬ completes → ¬ limited → inFlight p j = 0 →
       (x.state = .halting → report (some j) c p =
         admitJobs (raise .job { q with jobs := put q.jobs j (some { y with state := .halted }) })) ∧
       (x.state = .cancelling → report (some j) c p = finishJob j y .cancelled q) ∧
       (x.state ≠ .halting → x.state ≠ .cancelling → report (some j) c p = q)) ∧
     report none c p = p) ∧
  (∀ (p : Part) (j : JobNum) (x : Job) (d : Slot) (st : JobState), x.defn.labelSlot = none →
     p.slots[x.defn.discSlot] = some d → 0 < d.refs →
     let q := raise .job { p with
       jobs := put p.jobs j (some { x with state := st, haltReason := none })
       runList := p.runList.filter (· ≠ j) }
     (d.state = .retiring → d.refs = 1 →
       finishJob j x st p = admitJobs (raise .image { q with slots := put p.slots x.defn.discSlot none })) ∧
     (d.state ≠ .retiring ∨ 1 < d.refs →
       finishJob j x st p =
         admitJobs { q with slots := put p.slots x.defn.discSlot (some { d with refs := d.refs - 1 }) })) ∧
  (∀ (p : Part) (j : JobNum) (x : Job) (d y : Slot) (n : SlotNum) (st : JobState), x.defn.labelSlot = some n →
     n ≠ x.defn.discSlot → p.slots[x.defn.discSlot] = some d → 0 < d.refs → p.slots[n] = some y → 0 < y.refs →
     let left := fun z : Slot =>
       if z.state = .retiring ∧ z.refs = 1 then none else some { z with refs := z.refs - 1 }
     let q := raise .job { p with
       jobs := put p.jobs j (some { x with state := st, haltReason := none })
       runList := p.runList.filter (· ≠ j)
       slots := put (put p.slots x.defn.discSlot (left d)) n (left y) }
     finishJob j x st p = admitJobs (if left d = none ∨ left y = none then raise .image q else q)) ∧
  (∀ (p : Part) (j : JobNum) (x : Job), p.jobs[j] = some x →
     let becomes := fun st why => raise .job { p with
       jobs := put p.jobs j (some { x with state := st, haltReason := why }) }
     (∀ why, haltRunning j x why p = endDrain j (withdrawPickOf j (becomes .halting (some why)))) ∧
     (inFlight p j = 0 → x.state = .halting → endDrain j p = admitJobs (becomes .halted x.haltReason)) ∧
     (inFlight p j = 0 → x.state = .cancelling → endDrain j p = finishJob j x .cancelled p) ∧
     (0 < inFlight p j ∨ (x.state ≠ .halting ∧ x.state ≠ .cancelling) → endDrain j p = p))

/-! ## Moves -/

/-- R60 and R61: MOVE NEXT gives the issued order again; with none issued it issues the first order of the queue that
nothing in R60 holds back; otherwise it gives no move. Every answer carries the flow state. (`moveReady` is the
model's own field, log entry 9: R61's condition as last judged, which an issue ends.) -/
def Obligations.MoveNextIssues : Prop :=
  ∀ (l : Link) (fill : Nat) (s : State), LinkOpen l s →
    let f := s.part.flow
    let held : Byte := if f.held then 1 else 0
    let order := fun (mark : Byte) (o : Order) =>
      [mark, byte o.kind.code] ++ le16 o.disc ++ [byte o.source.code, byte o.target.code, held]
    let free := fun o : Order => f.held = false ∧ (o.target = .acceptBin → f.acceptFull = false) ∧
      (o.target = .rejectBin → f.rejectFull = false) ∧
      (o.kind = .pick → s.part.thermal.ambient.condition ≠ .critical)
    (∀ o, f.issued = some o → Completes .moveNext l [] fill s (.done (order 2 o)) s.part) ∧
    (∀ before o after, f.issued = none → f.queue = before ++ o :: after → free o → (∀ x ∈ before, ¬ free x) →
      Completes .moveNext l [] fill s (.done (order 1 o))
        { s.part with flow := { f with issued := some o, moveReady := false } }) ∧
    (f.issued = none → (∀ o ∈ f.queue, ¬ free o) →
      Completes .moveNext l [] fill s (.done [0, 0xFF, 0, 0, 0xFF, 0xFF, held]) s.part)

/-- R62: a PICK reported done leaves the queue, its disc is LOADED in its bay, the job counts it as picked, and the
disc goes to the burn set engine, or is FAILED CANCELLED if its job is by then CANCELLING. R116 and R117: the engine
puts the bay into its job's GATHERING session, or into a new session under the lowest free number, or at the end of
the waiting bays; a session that has reached its set size leaves gathering, and one whose gather timer stands at 0
does too (log entry 29); if it ended at once the waiting bays are placed. (A bay that is a member or waits already
stays: log entry 19.) -/
def Obligations.PickReportedDone : Prop :=
  (∀ (l : Link) (o : Order) (d : Disc) (j : JobNum) (b : BayNum) (fill : Nat) (s : State), LinkOpen l s →
     s.part.flow.issued = some o → o.kind = .pick → o.target = .bay b → 0 < o.disc → o.disc < 65536 →
     findDisc s.part o.disc = some d → d.job = some j →
     let flow := s.part.flow
     let bay := s.part.bays[b]
     let q := judgeMove { s.part with
       flow := { flow with queue := flow.queue.filter (· ≠ o), issued := none } }
     let loaded := fun x : Disc =>
       { x with state := .loaded, position := .bay b, destination := none, loadBay := some b }
     let counted := report (some j) ⟨1, 0, 0⟩ { q with
       flow := { q.flow with discs := q.flow.discs.map fun x => if x.id = o.disc then loaded x else x }
       bays := put q.bays b
         { bay with state := if bay.present then .loaded else bay.state, disc := some o.disc } }
     let completes := Completes .moveDone l (le16 o.disc ++ [byte o.kind.code]) fill s (.done [])
     ((∀ x, counted.jobs[j] = some x → x.state ≠ .cancelling) → completes (settle (placeLoaded b j counted))) ∧
     ∀ x, counted.jobs[j] = some x → x.state = .cancelling →
       completes (settle (failDisc (loaded d) .cancelled counted))) ∧
  (∀ (p : Part) (b : BayNum) (j : JobNum),
     let gathers := fun n : SessionNum => ∃ y, p.engine.sessions[n] = some y ∧ y.state = .gathering ∧ y.job = j
     let holds := fun (n : SessionNum) (y : Session) =>
       { p with engine := { p.engine with sessions := put p.engine.sessions n (some y) } }
     (∀ (n : SessionNum) (y : Session), gathers n → (∀ m : SessionNum, m < n → ¬ gathers m) →
       p.engine.sessions[n] = some y →
       placeIn p j b = some (n, holds n { y with members := y.members ++ [⟨b, false⟩] })) ∧
     ((∀ n, ¬ gathers n) →
       (∀ (n : SessionNum) (x : Job) (z : Slot), p.engine.sessions[n] = none →
         (∀ m : SessionNum, m < n → p.engine.sessions[m] ≠ none) → p.jobs[j] = some x →
         p.slots[x.defn.discSlot] = some z →
         placeIn p j b = some (n, holds n ⟨j, x.defn.discSlot, x.defn.media, z.blockCount, .gathering, [⟨b, false⟩], 0,
           none, none, some (p.engine.settings.gatherTime * 1000), none, none, false, none⟩)) ∧
       ((∀ n : SessionNum, p.engine.sessions[n] ≠ none) → placeIn p j b = none))) ∧
  (∀ (p : Part) (b : BayNum) (j : JobNum),
     let member := ∃ (n : SessionNum) (y : Session), p.engine.sessions[n] = some y ∧ ∃ m ∈ y.members, m.bay = b
     (member ∨ b ∈ p.engine.waiting → placeLoaded b j p = p) ∧
     (¬ member → b ∉ p.engine.waiting →
       (placeIn p j b = none → placeLoaded b j p =
         { p with engine := { p.engine with waiting := p.engine.waiting ++ [b] } }) ∧
       ∀ n q, placeIn p j b = some (n, q) →
         let r := judgeFull n q
         (r.engine.sessions[n] = none → placeLoaded b j p = placeWaiting r.engine.waiting.length r) ∧
         (r.engine.sessions[n] ≠ none → placeLoaded b j p = r))) ∧
  ∀ (p : Part) (n : SessionNum) (y : Session), p.engine.sessions[n] = some y →
    let full := (∃ x, p.jobs[y.job] = some x ∧ y.members.length = x.defn.setSize) ∨ y.gather = some 0
    (full → judgeFull n p = leaveGathering n p) ∧ (¬ full → judgeFull n p = p)

/-- R63: a PRINT_WAIT disc reported done in the tray frees its bay, becomes PRINTING, and the printer starts its label
with the fields of the disc's job; a FAILED disc goes on to the reject bin, and its label is NOT_PRINTED. -/
def Obligations.TrayMoveReportedDone : Prop :=
  ∀ (l : Link) (o : Order) (d : Disc) (b : BayNum) (fill : Nat) (s : State), LinkOpen l s →
    s.part.flow.issued = some o → o.source = .bay b → o.target = .tray → 0 < o.disc → o.disc < 65536 →
    findDisc s.part o.disc = some d →
    let flow := s.part.flow
    let q := judgeMove { s.part with
      flow := { flow with queue := flow.queue.filter (· ≠ o), issued := none } }
    let arrives := fun st : DiscState => freeBay b { q with flow := { q.flow with
      discs := q.flow.discs.map fun x =>
        if x.id = o.disc then { x with position := .tray, destination := none, state := st } else x } }
    let completes := Completes .moveDone l (le16 o.disc ++ [byte o.kind.code]) fill s (.done [])
    (∀ j x n y, d.state = .printWait → d.job = some j → s.part.jobs[j] = some x → x.defn.labelSlot = some n →
      s.part.slots[n] = some y →
      completes (settle { arrives .printing with printer := { s.part.printer with
        state := .printing, disc := some o.disc, status := some .underWay
        label := some ⟨n, y.length, x.defn.trim, 0, 0, 0⟩ } })) ∧
    (d.state = .failed → (∀ x ∈ flow.discs, x.id = o.disc → x.state = .failed) →
      let r := addOrder .printerToReject o.disc .tray .rejectBin (arrives .failed)
      completes (settle { r with printer := { s.part.printer with
        state := if s.part.printer.state = .idle then .doneWait else s.part.printer.state
        disc := some o.disc, status := some .notPrinted } }))

/-- R64, R76 and R172: a delivery reported done removes the disc record, frees its place, appends the disc's entry to
the results ring, sets DELIVERED or REJECTED, and counts it for the job. A bay that is freed becomes EMPTY (an absent
one, which holds no disc in any run, stays OFFLINE: R74), and a pending disable takes effect and sets BAY. As the tray
is freed the label's fields are absent, and a DONE_WAIT printer becomes IDLE, or PAUSED_RIBBON with PRINTER set when
no ribbon is left. -/
def Obligations.DeliveryReportedDone : Prop :=
  (∀ (l : Link) (o : Order) (d : Disc) (fill : Nat) (s : State), LinkOpen l s →
     s.part.flow.issued = some o → 0 < o.disc → o.disc < 65536 → findDisc s.part o.disc = some d →
     let flow := s.part.flow
     let q := judgeMove { s.part with
       flow := { flow with queue := flow.queue.filter (· ≠ o), issued := none } }
     let gone := { q with flow := { q.flow with discs := q.flow.discs.filter fun x => x.id ≠ o.disc } }
     let completes := Completes .moveDone l (le16 o.disc ++ [byte o.kind.code]) fill s (.done [])
     let delivers := fun freed =>
       (o.target = .acceptBin → completes (settle (report d.job ⟨0, 1, 0⟩ (raise .delivered (appendResult
         ⟨o.disc, d.job, .accepted, d.reason, d.grade, d.stalls, d.loadBay, d.printed⟩ freed))))) ∧
       (o.target = .rejectBin → completes (settle (report d.job ⟨0, 0, 1⟩ (raise .rejected (appendResult
         ⟨o.disc, d.job, .rejected, d.reason, d.grade, d.stalls, d.loadBay, d.printed⟩ freed)))))
     (∀ b, o.source = .bay b → delivers (freeBay b gone)) ∧ (o.source = .tray → delivers (trayFreed gone))) ∧
  ((∀ (p : Part) (b : BayNum),
     let x := p.bays[b]
     let y := { x with state := if x.present then .empty else x.state, disc := none }
     (x.disablePending = false → freeBay b p = { p with bays := put p.bays b y }) ∧
     (x.disablePending = true → freeBay b p = raise .bay { p with
       bays := put p.bays b { y with enabled := false, disablePending := false } })) ∧
   ∀ p : Part,
     let becomes := fun st => { p with
       printer := { p.printer with disc := none, status := none, label := none, state := st } }
     (p.printer.state ≠ .doneWait → trayFreed p = becomes p.printer.state) ∧
     (p.printer.state = .doneWait → 0 < p.printer.ribbon → trayFreed p = becomes .idle) ∧
     (p.printer.state = .doneWait → p.printer.ribbon = 0 → trayFreed p = raise .printer (becomes .pausedRibbon)))

/-- R65 to R67: NO_DISC on a PICK makes the spindle EMPTY, sets BLANKS and undoes the pick; DROPPED removes the disc,
frees its place, appends a rejected entry whose reason is the disc's own or DROPPED, and sets REJECTED; JAM makes the
flow HELD, keeps the order issued and sets FLOW_HELD. What refuses a report of a move (R62, R65), changing nothing:
disc id 0, an unknown kind or failure (RANGE); no order issued, or another disc, or another kind in a MOVE DONE
(STALE_MOVE); NO_DISC on an order that is no PICK (STATE). -/
def Obligations.FailedMovesTakeEffect : Prop :=
  (∀ (l : Link) (o : Order) (d : Disc) (fill : Nat) (s : State), LinkOpen l s →
     s.part.flow.issued = some o → 0 < o.disc → o.disc < 65536 → findDisc s.part o.disc = some d →
     let flow := s.part.flow
     let off := { flow with queue := flow.queue.filter (· ≠ o), issued := none }
     let without := fun discs : List Disc => discs.filter fun x => x.id ≠ o.disc
     (∀ n b, o.kind = .pick → o.source = .spindle n → o.target = .bay b →
       let q := freeBay b { s.part with
         flow := { off with spindles := put flow.spindles n none, discs := without flow.discs } }
       Completes .moveFailedNoDisc l (le16 o.disc ++ [0]) fill s (.done [])
         (settle (report d.job ⟨0, 0, 0⟩ (raise .blanks (judgeMove q))))) ∧
     (let q := judgeMove { s.part with flow := off }
      let gone := { q with flow := { q.flow with discs := without q.flow.discs } }
      let entry : ResultEntry := ⟨o.disc, d.job, .rejected, some (d.reason.getD .dropped), d.grade, d.stalls, d.loadBay,
        d.printed⟩
      let drops := fun c freed => Completes .moveFailedDropped l (le16 o.disc ++ [1]) fill s (.done [])
        (settle (report d.job c (raise .rejected (appendResult entry freed))))
      (∀ b, o.kind = .pick → o.target = .bay b → drops ⟨1, 0, 1⟩ (freeBay b gone)) ∧
      (∀ b, o.kind ≠ .pick → o.source = .bay b → drops ⟨0, 0, 1⟩ (freeBay b gone)) ∧
      (o.kind ≠ .pick → o.source = .tray → drops ⟨0, 0, 1⟩ (trayFreed gone))) ∧
     Completes .moveFailedJam l (le16 o.disc ++ [2]) fill s (.done [])
       (settle (raise .flowHeld { s.part with flow := { flow with held := true } }))) ∧
  (∀ (l : Link) (i0 i1 x : Byte) (fill : Nat) (s : State), LinkOpen l s →
     let done := fun r => Completes .moveDone l [i0, i1, x] fill s (.refused r []) s.part
     let failed := fun r =>
       (x = 1#8 → Completes .moveFailedDropped l [i0, i1, x] fill s (.refused r []) s.part) ∧
       (x = 2#8 → Completes .moveFailedJam l [i0, i1, x] fill s (.refused r []) s.part) ∧
       (x ≠ 1#8 → x ≠ 2#8 → Completes .moveFailedNoDisc l [i0, i1, x] fill s (.refused r []) s.part)
     let id := num16 i0 i1
     (id = 0 ∨ 5 < x.toNat → done .range) ∧ (id = 0 ∨ 2 < x.toNat → failed .range) ∧
     (id ≠ 0 → x.toNat ≤ 5 → (∀ o, s.part.flow.issued = some o → o.disc ≠ id ∨ o.kind.code ≠ x.toNat) →
       done .staleMove) ∧
     (id ≠ 0 → x.toNat ≤ 2 → (∀ o, s.part.flow.issued = some o → o.disc ≠ id) → failed .staleMove) ∧
     ∀ o, id ≠ 0 → x = 0#8 → s.part.flow.issued = some o → o.disc = id → o.kind ≠ .pick → failed .state)

/-- R50, R49, R48 and R71: FLOW RESUME ends HELD (STATE if the flow runs); BIN REPORT records a bin, FULL setting BIN;
SPINDLE REPORT records a spindle and withdraws an unissued pick whose blanks it takes away; DISC READ gives the record
(NO_DISC without one). Bad numbers are refused with RANGE and change nothing. -/
def Obligations.FlowReportsAndDiscRead : Prop :=
  ∀ (l : Link) (fill : Nat) (s : State), LinkOpen l s →
    let p := s.part
    let flow := p.flow
    (flow.held = true → Completes .flowResume l [] fill s (.done [])
      (settle { p with flow := { flow with held := false } })) ∧
    (flow.held = false → Completes .flowResume l [] fill s (.refused .state []) p) ∧
    (∀ full : Bool,
      let st : Byte := if full then 1 else 0
      let ends := fun q => settle (if full then raise .bin q else q)
      Completes .binReport l [0, st] fill s (.done []) (ends { p with flow := { flow with acceptFull := full } }) ∧
      Completes .binReport l [1, st] fill s (.done []) (ends { p with flow := { flow with rejectFull := full } })) ∧
    (∀ b st : Byte, 1 < b.toNat ∨ 1 < st.toNat → Completes .binReport l [b, st] fill s (.refused .range []) p) ∧
    (∀ (n : SpindleNum) (m : Option Media) (any : Byte),
      let q := { p with flow := { flow with spindles := put flow.spindles n m } }
      let reports := Completes .spindleReport l
        (match m with | none => [byte n.val, 0, any] | some m => [byte n.val, 1, byte m.code]) fill s (.done [])
      (∀ o j x, pickOrder p = some o → flow.issued ≠ some o → o.source = .spindle n → jobOfOrder p o = some j →
        p.jobs[j] = some x → m ≠ some x.defn.media → reports (settle (report (some j) ⟨0, 0, 0⟩ (withdraw o q)))) ∧
      ((∀ o, pickOrder p = some o → flow.issued = some o ∨ o.source ≠ .spindle n ∨
        ∃ j x, jobOfOrder p o = some j ∧ p.jobs[j] = some x ∧ m = some x.defn.media) → reports (settle q))) ∧
    (∀ n st m : Byte, 1 < n.toNat ∨ 1 < st.toNat ∨ (st = 1#8 ∧ 2 < m.toNat) →
      Completes .spindleReport l [n, st, m] fill s (.refused .range []) p) ∧
    (∀ id : Nat, 0 < id → id < 65536 →
      (∀ d, findDisc p id = some d → Completes .discRead l (le16 id) fill s (.done (discRecord p d)) p) ∧
      (findDisc p id = none → Completes .discRead l (le16 id) fill s (.refused .noDisc []) p)) ∧
    Completes .discRead l [0, 0] fill s (.refused .range []) p

/-- R51 and R52: with no pick in the queue, the flow running and AMBIENT below CRITICAL, a pick is created for the
first job of the run list that needs discs and has a spindle and a bay: its record is BOUND under a new id, at the
lowest spindle of its media, and the lowest bay fit for it is RESERVED. With one of these conditions false, none is
created. R45: the new id is the first from the next identifier on that no record has, 65,535 being followed by 1. R55:
the withdrawal of a job's pick takes the order off the queue, removes its record and frees the reserved bay; an issued
pick, and that of another job, is not withdrawn. -/
def Obligations.PickIsCreated : Prop :=
  ∀ p : Part,
    (∀ (before after : List JobNum) (j : JobNum) (x : Job) (n : SpindleNum) (b : BayNum),
      (∀ o ∈ p.flow.queue, o.kind ≠ .pick) → p.flow.held = false → p.thermal.ambient.condition ≠ .critical →
      p.runList = before ++ j :: after → (∀ i ∈ before, pickFor p i = none) →
      p.jobs[j] = some x → x.state = .running → x.accepted + inFlight p j < x.defn.target →
      x.picked + boundCount p j < 65535 →
      p.flow.spindles[n] = some x.defn.media → (∀ m : SpindleNum, m < n → p.flow.spindles[m] ≠ some x.defn.media) →
      let fit := fun c : BayNum => p.bays[c].present = true ∧ p.bays[c].enabled = true ∧ p.bays[c].state = .empty ∧
        p.bays[c].disablePending = false ∧ p.bays[c].capability.speed x.defn.media ≠ 0 ∧
        p.thermal.bays[c].condition ≠ .critical
      fit b → (∀ c : BayNum, c < b → ¬ fit c) →
      let id := newId p
      let q := insertDisc ⟨id, some j, .bound, .spindle n, none, none, none, none, none, none, false, none⟩
        { p with flow := { p.flow with nextId := if id < 65535 then id + 1 else 1 } }
      judgePick p = addOrder .pick id (.spindle n) (.bay b)
        { q with bays := put p.bays b { p.bays[b] with state := .reserved, disc := none } }) ∧
    ((∃ o ∈ p.flow.queue, o.kind = .pick) ∨ p.flow.held = true ∨ p.thermal.ambient.condition = .critical ∨
      (∀ j ∈ p.runList, pickFor p j = none) → judgePick p = p) ∧
    ((∀ o ∈ p.flow.queue, o.kind ≠ .pick) → ∀ j, withdrawPickOf j p = p) ∧
    (∀ (before after : List Order) (o : Order) (d : Disc), p.flow.queue = before ++ o :: after → o.kind = .pick →
      (∀ x ∈ before, x.kind ≠ .pick) → findDisc p o.disc = some d →
      (∀ j, p.flow.issued = some o ∨ d.job ≠ some j → withdrawPickOf j p = p) ∧
      ∀ j b, p.flow.issued ≠ some o → d.job = some j → o.target = .bay b →
        withdrawPickOf j p = withdraw o p ∧
        withdraw o p = judgeMove (freeBay b { p with flow := { p.flow with
          queue := p.flow.queue.filter (· ≠ o), discs := p.flow.discs.filter fun x => x.id ≠ o.disc } })) ∧
    (∀ j, pickFor p j ≠ none ↔ ∃ x, p.jobs[j] = some x ∧ x.state = .running ∧
      x.accepted + inFlight p j < x.defn.target ∧ x.picked + boundCount p j < 65535 ∧
      (∃ n : SpindleNum, p.flow.spindles[n] = some x.defn.media) ∧
      ∃ c : BayNum, p.bays[c].present = true ∧ p.bays[c].enabled = true ∧ p.bays[c].state = .empty ∧
        p.bays[c].disablePending = false ∧ p.bays[c].capability.speed x.defn.media ≠ 0 ∧
        p.thermal.bays[c].condition ≠ .critical) ∧
    (1 ≤ p.flow.nextId → p.flow.nextId ≤ 65535 → p.flow.discs.length < 65535 →
      let after := fun i => if i < 65535 then i + 1 else 1
      (∀ d ∈ p.flow.discs, d.id ≠ newId p) ∧
      ∃ k, newId p = after^[k] p.flow.nextId ∧ ∀ i < k, ∃ d ∈ p.flow.discs, d.id = after^[i] p.flow.nextId)

/-- R56 and R59: a FAILED disc's bay becomes HOLDING and the disc is ordered to the reject bin from where it is; a
PASSED disc is ordered to the accept bin, or, when its job prints, joins the printer wait list. A new order stands
behind those of its class and the lower ones, its to-position becomes the disc's destination, and MOVE is judged. What
every step judges at its end, in the order of log entry 7: the wait list, the picks, the gathering sessions (up to 20
leavings: log entry 23), and MOVE. R57: with the tray free and the printer IDLE, the head of the wait list is ordered
to the tray if the ribbon is long enough for its label, and otherwise PRINTER is set as that begins to hold. R61: MOVE
is set as it begins to hold that none is issued and one is free to be. (`ribbonShort` and `moveReady` are the model's:
log entry 9.) -/
def Obligations.DiscsAreRouted : Prop :=
  let holding := fun x : Bay => { x with state := if x.present then .holding else x.state }
  (∀ (d : Disc) (why : RejectReason) (p : Part),
    let q := { p with flow := { p.flow with discs := p.flow.discs.map fun x =>
      if x.id = d.id then { x with reason := some why, session := none, state := .failed } else x } }
    (∀ b, d.position = .bay b → failDisc d why p = addOrder .bayToReject d.id (.bay b) .rejectBin
      { q with bays := put p.bays b (holding p.bays[b]) }) ∧
    (d.position = .tray → failDisc d why p = addOrder .printerToReject d.id .tray .rejectBin q)) ∧
  (∀ (d : Disc) (j : JobNum) (x : Job) (b : BayNum) (p : Part), d.position = .bay b → d.job = some j →
    p.jobs[j] = some x →
    (x.defn.labelSlot = none → routePassed d p = addOrder .bayToAccept d.id (.bay b) .acceptBin p) ∧
    (x.defn.labelSlot ≠ none → routePassed d p = { p with
      flow := { p.flow with
        discs := p.flow.discs.map fun y => if y.id = d.id then { y with state := .printWait } else y
        waitList := p.flow.waitList ++ [d.id] }
      bays := put p.bays b (holding p.bays[b]) })) ∧
  (∀ (k : MoveKind) (id : Nat) (a b : Position) (p : Part),
    let o : Order := ⟨k, id, a, b, p.flow.nextSeq⟩
    addOrder k id a b p = judgeMove { p with flow := { p.flow with
      queue := (p.flow.queue.filter fun x => x.kind.cls ≤ k.cls) ++ o :: p.flow.queue.filter fun x => k.cls < x.kind.cls
      nextSeq := p.flow.nextSeq + 1
      discs := p.flow.discs.map fun x => if x.id = id then { x with destination := some b } else x } }) ∧
  ([MoveKind.printerToAccept, .printerToReject, .bayToAccept, .bayToReject, .bayToPrinter, .pick].map (·.cls) =
    [0, 0, 1, 1, 2, 3]) ∧
  (∀ p : Part, settle p = judgeMove (judgeGathering 20 (judgePick (judgeWait p)))) ∧
  (∀ p : Part,
    let short := fun b => { p with flow := { p.flow with ribbonShort := b } }
    (p.flow.waitList = [] → judgeWait p = short false) ∧
    ∀ (d : Disc) (rest : List Nat) (j : JobNum) (x : Job) (n : SlotNum) (y : Slot), p.flow.waitList = d.id :: rest →
      findDisc p d.id = some d → d.job = some j → p.jobs[j] = some x → x.defn.labelSlot = some n →
      p.slots[n] = some y →
      let ready := p.printer.state = .idle ∧
        ∀ e ∈ p.flow.discs, e.position ≠ .tray ∧ e.destination ≠ some .tray
      (¬ ready → judgeWait p = short false) ∧
      (ready → y.length ≤ p.printer.ribbon → judgeWait p = addOrder .bayToPrinter d.id d.position .tray
        { p with flow := { p.flow with waitList := rest, ribbonShort := false } }) ∧
      (ready → p.printer.ribbon < y.length → p.flow.ribbonShort = true → judgeWait p = short true) ∧
      (ready → p.printer.ribbon < y.length → p.flow.ribbonShort = false → judgeWait p = raise .printer (short true))) ∧
  ∀ p : Part,
    let becomes := fun b => { p with flow := { p.flow with moveReady := b } }
    let waits := p.flow.issued = none ∧ p.flow.held = false ∧ ∃ o ∈ p.flow.queue,
      (o.target = .acceptBin → p.flow.acceptFull = false) ∧ (o.target = .rejectBin → p.flow.rejectFull = false) ∧
      (o.kind = .pick → p.thermal.ambient.condition ≠ .critical)
    (¬ waits → judgeMove p = becomes false) ∧ (waits → p.flow.moveReady = true → judgeMove p = becomes true) ∧
    (waits → p.flow.moveReady = false → judgeMove p = raise .move (becomes true))

/-! ## Bays -/

/-- R85, R86 and R89: BAY ENABLE makes a bay enabled with no disable pending and no failures, and sets BAY if it was
disabled; BAY DISABLE disables an EMPTY or OFFLINE bay at once and sets BAY, and leaves it pending in the other
states; BAY STATUS answers with the record. A number above 9 is refused with RANGE. -/
def Obligations.BayCommandsActOnOneBay : Prop :=
  ∀ (l : Link) (fill : Nat) (s : State), LinkOpen l s →
    (∀ b : Byte, 9 < b.toNat →
      Completes .bayEnable l [b] fill s (.refused .range []) s.part ∧
      Completes .bayDisable l [b] fill s (.refused .range []) s.part ∧
      Completes .bayStatus l [b] fill s (.refused .range []) s.part) ∧
    ∀ b : BayNum,
      let x := s.part.bays[b]
      let becomes := fun y => { s.part with bays := put s.part.bays b y }
      let on := becomes { x with enabled := true, disablePending := false, failures := 0 }
      let pending : Byte := if x.disablePending then 1 else 0
      Completes .bayEnable l [byte b.val] fill s (.done []) (settle (if x.enabled then on else raise .bay on)) ∧
      (x.enabled = true → x.state = .empty ∨ x.state = .offline →
        Completes .bayDisable l [byte b.val] fill s (.done [0, pending])
          (settle (raise .bay (becomes { x with enabled := false })))) ∧
      (x.enabled = true → x.state ≠ .empty → x.state ≠ .offline →
        Completes .bayDisable l [byte b.val] fill s (.done [1, 1])
          (settle (becomes { x with disablePending := true }))) ∧
      (x.enabled = false → Completes .bayDisable l [byte b.val] fill s (.done [0, pending]) (settle s.part)) ∧
      Completes .bayStatus l [byte b.val] fill s (.done (bayRecord s.part b)) s.part

/-- R79, R80, R104, R110 and R125: a housekeeping or probe timer that expires asks for a STATUS READ of its bay; a
stall timer that expires asks for a READY POLL, with a laggard poll outstanding; each is merged with one that waits.
The end of the 1 ms pause stops it. R100 and R101: ATTN asks for a SERVICE POLL as it rises, and if still asserted as
the hold-off ends, unless the hold-off runs, a poll is wanted or on the bus, or a read that a poll produced still
waits; one that is under way holds off no poll. (Only a running timer expires: log entry 8. That a poll is wanted from
its asking until it goes onto the bus is the model's reading: log entry 14. That an item the round has taken and not
yet sent still waits is too: log entry 24.) -/
def Obligations.TimersAndAttentionAskForItems : Prop :=
  (∀ s : State, s.part.held = false →
     let p := s.part
     let asks := fun (it : Item) (q : Part) => { q with bus := { p.bus with list := p.bus.list ++ [it] } }
     let waits := fun it => it ∈ p.bus.list ∨ it ∈ p.bus.turn.rest
     (∀ b : BayNum, p.bays[b].housekeeping.isSome = true →
       let q := { p with bays := put p.bays b { p.bays[b] with housekeeping := none } }
       ((∃ polled, waits (.statusRead b polled)) → Happens (.housekeepingTimerExpiry b) s q) ∧
       ((∀ polled, ¬ waits (.statusRead b polled)) →
         Happens (.housekeepingTimerExpiry b) s (asks (.statusRead b false) q))) ∧
     (∀ b : BayNum, p.bays[b].probe.isSome = true →
       let q := { p with bays := put p.bays b { p.bays[b] with probe := none } }
       ((∃ polled, waits (.statusRead b polled)) → Happens (.probeTimerExpiry b) s q) ∧
       ((∀ polled, ¬ waits (.statusRead b polled)) →
         Happens (.probeTimerExpiry b) s (asks (.statusRead b false) q))) ∧
     (∀ (n : SessionNum) (x : Session), p.engine.sessions[n] = some x → x.stall.isSome = true →
       let q := { p with engine := { p.engine with
         sessions := put p.engine.sessions n (some { x with stall := none, laggardPoll := true }) } }
       (waits (.readyPoll n) → Happens (.stallTimerExpiry n) s q) ∧
       (¬ waits (.readyPoll n) → Happens (.stallTimerExpiry n) s (asks (.readyPoll n) q))) ∧
     Happens .grantPauseExpiry s { p with bus := { p.bus with pause := none } }) ∧
  (∀ (attn : Bool) (s : State), s.part.held = false →
     let bus := s.part.bus
     let pollRead := fun it : Item => ∃ b, it = .statusRead b true
     let busy := bus.pollWanted = true ∨ .servicePoll ∈ bus.list ∨ .servicePoll ∈ bus.turn.rest ∨
       bus.turn.item = some .servicePoll ∨ ∃ it ∈ bus.list ++ bus.turn.rest, pollRead it
     let asks := fun b : Bus => { s.part with bus := { b with list := b.list ++ [.servicePoll], pollWanted := true } }
     let rises := HappensSampling .attnRise s { s.pins with attn := true }
     let expires := HappensSampling (.attentionHoldOffExpiry attn) s { s.pins with attn := attn }
     let ended := { bus with holdOff := none }
     (¬ busy → bus.holdOff = none → rises (asks bus)) ∧
     (busy ∨ bus.holdOff ≠ none → rises s.part) ∧
     (bus.holdOff ≠ none → attn = true → ¬ busy → expires (asks ended)) ∧
     (bus.holdOff ≠ none → attn = false ∨ busy → expires { s.part with bus := ended }))

/-! ## The bay bus -/

/-- R92 to R94, R105 and R110: a service round takes the items of the list; items whose session has ended or has no
members go unsent (`carryOut` gives none), and the first other one goes on the bus with the addressing it needs; a
round of no such item is over at once; a pause ends. What the items of a session offer, and to whom: PREPARE, GO,
CLOSE and READY POLL to the members in ascending order of bay, READBACK to its one bay; STATUS READ, CLEAR n, CLEAR
ALL and SERVICE POLL are bus commands of their own that send no addressing. Addressing sends UNADDRESS and one LISTEN
for each listener, or the TALK of the one talker, and nothing when it is in force already. R91 and R98: CMD is
asserted while a bus command is offered and VALID while anything is; READY is held high and TAKEN low while the part
awaits a record or a readback block, and both are released otherwise. (The addressing commands go out within the step:
log entry 16. A poll is no longer wanted once it is on the bus: log entry 14. A SERVICE POLL sends no addressing
command: log entry 26.) -/
def Obligations.ServiceRoundTakesTheList : Prop :=
  (∀ s : State, s.part.held = false → s.part.bus.turn = .none → s.part.bus.list ≠ [] →
     (s.part.bus.afterRound = false ∨ ∀ e ∈ s.part.bus.ring, entryEligible s.part e = false) →
     let bus := s.part.bus
     (∀ skipped it rest need offer, bus.list = skipped ++ it :: rest → (∀ x ∈ skipped, carryOut s.part x = none) →
       carryOut s.part it = some (need, offer) →
       Happens .serviceRound s { s.part with bus := { bus with
         list := [], pause := none, fruitless := [], turn := .round (some ⟨it, true, offer⟩) rest
         pollWanted := bus.pollWanted && it ≠ .servicePoll
         addressing := match need with | none => bus.addressing | some a => a
         sent := match need with | none => [] | some a => addressCommands bus.addressing a } }) ∧
     ((∀ x ∈ bus.list, carryOut s.part x = none) →
       Happens .serviceRound s { s.part with bus := { bus with
         list := [], pause := none, fruitless := [], turn := .none
         afterRound := bus.ring.any (entryEligible s.part) } })) ∧
  (∀ p : Part,
     (∀ (n : SessionNum) (x : Session) (y : Slot), p.engine.sessions[n] = some x → x.members ≠ [] →
       p.slots[x.slot] = some y →
       ∃ bays : List BayNum, bays.Pairwise (· < ·) ∧ (∀ b, b ∈ bays ↔ ∃ m ∈ x.members, m.bay = b) ∧
         carryOut p (.prepare n) = some (some (.listeners bays), .prepare y.length x.media (x.speed.getD 1)) ∧
         carryOut p (.go n) = some (some (.listeners bays), .command .go) ∧
         carryOut p (.close n) = some (some (.listeners bays), .close) ∧
         carryOut p (.readyPoll n) = some (some (.listeners bays), .command .readyPoll)) ∧
     (∀ n : SessionNum, (p.engine.sessions[n] = none ∨ ∃ x, p.engine.sessions[n] = some x ∧ x.members = []) →
       ∀ it : Item, it.ofSession n = true → carryOut p it = none) ∧
     (∀ (k : PlaceNum) (r : Readback), p.verifier.places[k] = some r →
       carryOut p (.readback k) = some (some (.listeners [r.bay]), .readback r.blockCount)) ∧
     (∀ (b : BayNum) (polled : Bool), carryOut p (.statusRead b polled) = some (none, .command (.statusRead b))) ∧
     (∀ b : BayNum, carryOut p (.clear b) = some (none, .command (.clear b))) ∧
     carryOut p .clearAll = some (none, .command .clearAll) ∧
     carryOut p .servicePoll = some (none, .command .servicePoll) ∧
     ∀ need : Addressing,
       (address need p).bus.addressing = need ∧
       (p.bus.addressing = need → addressCommands p.bus.addressing need = [] ∧ (address need p).bus.sent = []) ∧
       (p.bus.addressing ≠ need →
         let commands : List BusCommand := match need with
           | .none => [.unaddress]
           | .listeners bays => .unaddress :: bays.map .listen
           | .talker b => [.unaddress, .talk b]
         addressCommands p.bus.addressing need = commands ∧ (address need p).bus.sent = commands)) ∧
  ∀ p : Part,
    let record := ∃ it live rest, p.bus.turn = .round (some ⟨it, live, .record⟩) rest
    let talks := ∃ k live, p.bus.turn = .talk k live
    (cmdAsserted p = true ↔ p.held = false ∧
      ∃ it live c rest, p.bus.turn = .round (some ⟨it, live, .command c⟩) rest) ∧
    (validAsserted p = true ↔ p.held = false ∧
      ((∃ c rest, p.bus.turn = .round (some c) rest ∧ c.offer ≠ .record) ∨
        ∃ n live i d, p.bus.turn = .block n live i d)) ∧
    (p.held = false → record ∨ talks → readyDriven p = some true ∧ takenDriven p = some false) ∧
    (p.held = true ∨ ¬ record ∧ ¬ talks → readyDriven p = none ∧ takenDriven p = none)

/-- R107 to R110: a grant goes to the first eligible entry after the grant position, wrapping round. READY low makes a
broadcast session yield, which starts its stall timer, and once every eligible entry has had such a grant the arbiter
pauses for 1 ms; READY high offers the block at the cursor from image memory; a readback session's bay talks. With no
eligible entry nothing happens. (When the pause begins is told by the entries granted without a block: log entry 13.
The addressing goes out within the step: log entry 16. A bay that talks already is sent no TALK: log entry 27.) -/
def Obligations.GrantGoesRoundTheRing : Prop :=
  ∀ (ready : Bool) (s : State), s.part.held = false → s.part.bus.turn = .none → s.part.bus.pause = none →
    (s.part.bus.list = [] ∨ s.part.bus.afterRound = true) →
    let p := s.part
    let bus := p.bus
    let mayGo : RingEntry → Prop := fun
      | .broadcast n => ∃ x, p.engine.sessions[n] = some x ∧
        (x.state = .priming ∧ x.cursor < x.primeCount.getD 0 ∨ x.state = .streaming ∧ x.cursor < x.blockCount)
      | .readback k => ∃ r, p.verifier.places[k] = some r ∧ r.taken < r.blockCount ∧ r.held.length < 2
    ((∀ e ∈ bus.ring, ¬ mayGo e) → Happens (.grant ready) s p) ∧
    ∀ order before e after, bus.ring.Nodup →
      (bus.position = none ∧ order = bus.ring) ∨
        (∃ c A B, bus.position = some c ∧ bus.ring = A ++ c :: B ∧ order = B ++ A ++ [c]) →
      order = before ++ e :: after → mayGo e → (∀ x ∈ before, ¬ mayGo x) →
      let takes := fun need => { bus with
        position := some e, afterRound := false, addressing := need, sent := addressCommands bus.addressing need }
      (∀ n x, e = .broadcast n → p.engine.sessions[n] = some x →
        let b := takes (.listeners (listenersOf x))
        (∀ y, ready = true → p.slots[x.slot] = some y → y.first + y.chunkCount ≤ 16384 →
          Happens (.grant ready) s
            { p with bus := { b with turn := .block n true x.cursor (imageBlock s.mem y x.cursor) } }) ∧
        (ready = false →
          let y := if x.stall = none ∧ x.laggardPoll = false then
            { x with stall := some (p.engine.settings.stallTime * 250) } else x
          let seen := if e ∈ bus.fruitless then bus.fruitless else bus.fruitless ++ [e]
          let yields := fun b => Happens (.grant ready) s { p with
            bus := b, engine := { p.engine with sessions := put p.engine.sessions n (some y) } }
          ((∀ r ∈ bus.ring, mayGo r → r ∈ seen) → yields { b with pause := some 1, fruitless := [] }) ∧
          ((∃ r ∈ bus.ring, mayGo r ∧ r ∉ seen) → yields { b with fruitless := seen }))) ∧
      ∀ k r, e = .readback k → p.verifier.places[k] = some r →
        Happens (.grant ready) s { p with bus := { takes (.talker r.bay) with turn := .talk k true } }

/-- R93, R97, R99 to R102, R119, R126, R127 and R139: a bus command or message that is TAKEN, or has stood for its
limit, is complete, and the round goes on. After a STATUS READ the part awaits the record. A CLEAR leaves no
addressing in force; a SERVICE POLL gives its reads; a PREPARE, CLOSE or READBACK message starts its owner's deadline:
90 s, 300 s, or 10 s of silence for a readback, which joins the grant ring. R123: GO takes a PRIMING session to
STREAMING, or to CLOSING with every block in. R126: the laggards of a READY POLL are dropped, and the stall timer
starts afresh or the session ends, unless the poll no longer stands. R105: the round goes on to the next item that is
sent, or ends. (That an ended session is told nothing is log entry 20; that its items in the round's rest go unsent is
log entry 24; R110's count starts afresh at the end of a round: log entry 13; laggards are dropped in the order of the
member list: log entry 7; a poll is no longer wanted once it is on the bus: log entry 14; the addressing commands go
out within the step: log entry 16.) -/
def Obligations.BusItemsComplete : Prop :=
  (∀ (lanes : Lanes) (attn : Bool) (it : Item) (live : Bool) (c : BusCommand) (rest : List Item) (s : State),
     s.part.held = false → s.part.bus.turn = .round (some ⟨it, live, .command c⟩) rest →
     let q := { s.part with bus := { s.part.bus with turn := .round none rest } }
     let ends := fun r =>
       HappensSampling (.busCommandTaken lanes attn) s { s.pins with attn := attn } (goOn (settle r)) ∧
       HappensSampling (.busCommandLimit lanes attn) s { s.pins with attn := attn } (goOn (settle r))
     (∀ b polled, it = .statusRead b polled →
       let awaits := { s.part with bus := { s.part.bus with turn := .round (some ⟨it, live, .record⟩) rest } }
       HappensSampling (.busCommandTaken lanes attn) s { s.pins with attn := attn } awaits ∧
       HappensSampling (.busCommandLimit lanes attn) s { s.pins with attn := attn } awaits) ∧
     (∀ b, it = .clear b → ends { q with bus := { q.bus with addressing := .none } }) ∧
     (it = .clearAll → ends { q with bus := { q.bus with addressing := .none } }) ∧
     (∀ n, it = .go n → live = true → ends (goSent n q)) ∧
     (∀ n, it = .readyPoll n → live = true → ends (laggardResult n lanes q)) ∧
     (∀ n, it = .go n ∨ it = .readyPoll n → live = false → ends q) ∧
     (it = .servicePoll →
       ((∀ b : BayNum, lanes.getLsbD b.val = false) →
         (attn = true → ends { q with bus := { q.bus with holdOff := some 100 } }) ∧ (attn = false → ends q)) ∧
       ((∃ b : BayNum, lanes.getLsbD b.val = true) →
         let flagged := (List.finRange 10).filter fun b => lanes.getLsbD b.val
         let other := fun i : Item => !flagged.any fun b => i.reads b
         ends { q with bus := { q.bus with
           list := q.bus.list.filter other
           turn := .round none ((flagged.map fun b => .statusRead b true) ++ rest.filter other) } }))) ∧
  (∀ (it : Item) (live : Bool) (offer : Offer) (rest : List Item) (s : State),
     s.part.held = false → s.part.bus.turn = .round (some ⟨it, live, offer⟩) rest → (∀ c, offer ≠ .command c) →
     offer ≠ .record →
     let q := { s.part with bus := { s.part.bus with turn := .round none rest } }
     let ends := fun r => Happens .messageTaken s (goOn r) ∧ Happens .messageLimit s (goOn r)
     let holds := fun n x => { q with engine := { q.engine with sessions := put q.engine.sessions n (some x) } }
     (live = false → ends q) ∧
     (∀ n x, it = .prepare n → live = true → q.engine.sessions[n] = some x → x.state = .preparing →
       ends (holds n { x with prepare := some 90000 })) ∧
     (∀ n x, it = .close n → live = true → q.engine.sessions[n] = some x → x.state = .closing →
       ends (holds n { x with close := some 300000 })) ∧
     ∀ k r, it = .readback k → live = true → q.verifier.places[k] = some r →
       ends { q with
         verifier := { q.verifier with
           places := put q.verifier.places k (some { r with sent := true, silence := some 10000 }) }
         bus := { q.bus with
           ring := if .readback k ∈ q.bus.ring then q.bus.ring else q.bus.ring ++ [.readback k]
           fruitless := [] } }) ∧
  (∀ (n : SessionNum) (x : Session) (lanes : Lanes) (p : Part), p.engine.sessions[n] = some x →
     let holds := fun (q : Part) y =>
       { q with engine := { q.engine with sessions := put q.engine.sessions n (some y) } }
     (x.state ≠ .priming → goSent n p = p) ∧
     (x.state = .priming → x.cursor ≠ x.blockCount → goSent n p = holds p { x with state := .streaming }) ∧
     (x.state = .priming → x.cursor = x.blockCount →
       let q := leaveRing (.broadcast n) (holds p { x with state := .closing, stall := none, laggardPoll := false })
       goSent n p = { q with bus := { q.bus with list := q.bus.list ++ [.close n] } }) ∧
     let stands := x.laggardPoll = true ∧ (x.state = .priming ∨ x.state = .streaming)
     let quiet := holds p { x with laggardPoll := false }
     (¬ stands → laggardResult n lanes p = quiet) ∧
     (stands →
       let late := (x.members.filter fun m => lanes.getLsbD m.bay.val = false).map (·.bay)
       let q := dropMembers n .laggard true late quiet
       ∀ y, q.engine.sessions[n] = some y →
         (y.members = [] → laggardResult n lanes p = reap n q) ∧
         (y.members ≠ [] → laggardResult n lanes p =
           holds q { y with stall := some (q.engine.settings.stallTime * 250) }))) ∧
  ∀ p : Part,
    let bus := p.bus
    (∀ skipped it rest need offer, bus.turn.rest = skipped ++ it :: rest → (∀ x ∈ skipped, carryOut p x = none) →
      carryOut p it = some (need, offer) →
      goOn p = { p with bus := { bus with
        turn := .round (some ⟨it, true, offer⟩) rest
        pollWanted := bus.pollWanted && it ≠ .servicePoll
        addressing := match need with | none => bus.addressing | some a => a
        sent := match need with | none => [] | some a => addressCommands bus.addressing a } }) ∧
    ((∀ x ∈ bus.turn.rest, carryOut p x = none) →
      goOn p = { p with bus := { bus with
        turn := .none, afterRound := bus.ring.any (entryEligible p), fruitless := [] } })

/-- R96, R98, R108, R109, R124 and R140: an accepted block moves its session's cursor on and restarts its stall timer;
at the prime count GO is asked for, and at the last block the session is CLOSING, off the ring, and CLOSE is asked
for. An abandoned block is a yield. A readback block and its trailer join the blocks the verifier holds and restart
the silence timer; an empty turn tells the verifier nothing. A session that has ended is told of neither. R106: an
entry that leaves the ring leaves the others in their order, and a grant position on it moves to the entry before it,
the last one before the first. R110: a grant without a block brings the 1 ms pause once each eligible entry has had
one. (The entries that had one are the model's count: log entry 13.) -/
def Obligations.BlockTransfersEnd : Prop :=
  (∀ (n : SessionNum) (live : Bool) (index : Nat) (data : List Byte) (s : State),
     s.part.held = false → s.part.bus.turn = .block n live index data →
     let p := s.part
     let moved := { p with bus := { p.bus with turn := .none, fruitless := [] } }
     let stall := p.engine.settings.stallTime * 250
     let holds := fun (q : Part) x =>
       { q with engine := { q.engine with sessions := put q.engine.sessions n (some x) } }
     (live = false → Happens .blockAccepted s moved ∧
       Happens .blockAbandoned s { p with bus := { p.bus with turn := .none } }) ∧
     ∀ x, live = true → p.engine.sessions[n] = some x →
       let y := { x with cursor := x.cursor + 1, stall := some stall, laggardPoll := false }
       (x.state = .priming → x.primeCount ≠ some (x.cursor + 1) → Happens .blockAccepted s (holds moved y)) ∧
       (x.state = .priming → x.primeCount = some (x.cursor + 1) →
         Happens .blockAccepted s (holds
           { moved with bus := { moved.bus with list := moved.bus.list ++ [.go n] } } { y with stall := none })) ∧
       (x.state = .streaming → x.cursor + 1 ≠ x.blockCount → Happens .blockAccepted s (holds moved y)) ∧
       (x.state = .streaming → x.cursor + 1 = x.blockCount →
         let q := leaveRing (.broadcast n) moved
         Happens .blockAccepted s (holds { q with bus := { q.bus with list := q.bus.list ++ [.close n] } }
           { y with state := .closing, stall := none })) ∧
       let z := if x.stall = none ∧ x.laggardPoll = false then { x with stall := some stall } else x
       Happens .blockAbandoned s (endFruitless (.broadcast n) (holds p z))) ∧
  (∀ (k : PlaceNum) (live : Bool) (data : List Byte) (trailer : Byte) (s : State),
     s.part.held = false → s.part.bus.turn = .talk k live → data.length = 65536 →
     let p := s.part
     let moved := { p with bus := { p.bus with turn := .none, fruitless := [] } }
     (live = false → Happens (.readbackBlockTaken data trailer) s moved ∧
       Happens .readbackTurnEmpty s { p with bus := { p.bus with turn := .none } }) ∧
     (live = true → Happens .readbackTurnEmpty s (endFruitless (.readback k) p)) ∧
     ∀ r, live = true → p.verifier.places[k] = some r →
       Happens (.readbackBlockTaken data trailer) s { moved with verifier := { p.verifier with
         places := put p.verifier.places k (some { r with
           taken := r.taken + 1, held := r.held ++ [⟨data, trailer⟩], silence := some 10000 }) } }) ∧
  (∀ (e : RingEntry) (A B : List RingEntry) (p : Part), p.bus.ring.Nodup → p.bus.ring = A ++ e :: B →
     leaveRing e p = { p with bus := { p.bus with
       ring := A ++ B
       position := if p.bus.position = some e then (B ++ A).getLast? else p.bus.position } }) ∧
  (∀ (e : RingEntry) (p : Part), e ∉ p.bus.ring → p.bus.position ≠ some e → leaveRing e p = p) ∧
  ∀ (e : RingEntry) (p : Part),
    let seen := if e ∈ p.bus.fruitless then p.bus.fruitless else p.bus.fruitless ++ [e]
    let due := (∃ r ∈ p.bus.ring, entryEligible p r = true) ∧ ∀ r ∈ p.bus.ring, entryEligible p r = true → r ∈ seen
    (due → endFruitless e p = { p with bus := { p.bus with turn := .none, pause := some 1, fruitless := [] } }) ∧
    (¬ due → endFruitless e p = { p with bus := { p.bus with turn := .none, fruitless := seen } })

/-- R78 to R82 and R102. Answered: an absent bay becomes present and EMPTY and sets BAY; the record gives temperature,
capability (speeds above 48 taken as 48) and error code, and is sampled; the housekeeping timer restarts; a disc in an
EMPTY bay is an orphan: FAILED under a new id, its bay HOLDING it, ordered to the reject bin (R70); the session is
told. Unanswered: an OFFLINE bay stays, an EMPTY one becomes OFFLINE and sets BAY; the probe timer of a bay then
OFFLINE restarts, and the housekeeping timer of any other. The housekeeping timer of a bay that was present stays
stopped while a read of it waits. The round goes on. (That a read in the round's rest still waits is log entry 24;
when the poll is judged again is log entry 14.) -/
def Obligations.StatusReadsEnd : Prop :=
  (∀ (r : StatusRecord) (attn : Bool) (b : BayNum) (polled live : Bool) (rest : List Item) (s : State),
     s.part.held = false → s.part.bus.turn = .round (some ⟨.statusRead b polled, live, .record⟩) rest →
     let q := { s.part with bus := { s.part.bus with turn := .round none rest, addressing := .talker b } }
     let x : Bay := s.part.bays[b]
     let speed := fun v : Byte => if 48 < v.toNat then 48 else v.toNat
     let y : Bay := { x with
       present := true, state := if x.present then x.state else .empty, probe := if x.present then x.probe else none
       temperature := some (clampInt (-160) 511 r.temperature)
       capability := ⟨speed r.speedCd, speed r.speedDvd, speed r.speedBd⟩
       errorCode := match r.errorCode with | some e => some e.toNat | none => x.errorCode }
     let waits := ∃ polled, .statusRead b polled ∈ s.part.bus.list ∨ .statusRead b polled ∈ rest
     let t := sampleBay b r.temperature (if x.present then q else raise .bay q)
     let goesOn := fun u => HappensSampling (.statusReadAnswered r attn) s { s.pins with attn := attn }
       (goOn (if polled = true ∧ (∀ c, .statusRead c true ∉ u.bus.turn.rest) then judgePoll attn u else u))
     ∀ timer, (x.present = true → waits → timer = none) → (x.present = false ∨ ¬ waits → timer = some 5000) →
       let taken := { t with bays := put s.part.bays b { y with housekeeping := timer } }
       goesOn (settle (engineRecord b r
         (if r.discPresent = true ∧ y.state = .empty then orphanInBay b taken else taken)))) ∧
  (∀ (attn : Bool) (b : BayNum) (polled live : Bool) (rest : List Item) (s : State),
     s.part.held = false → s.part.bus.turn = .round (some ⟨.statusRead b polled, live, .record⟩) rest →
     let q := { s.part with bus := { s.part.bus with turn := .round none rest, addressing := .talker b } }
     let x := s.part.bays[b]
     let waits := ∃ polled, .statusRead b polled ∈ s.part.bus.list ∨ .statusRead b polled ∈ rest
     ∀ timer, (waits → timer = none) → (¬ waits → timer = some 5000) →
       let becomes := fun y => { q with bays := put q.bays b y }
       let goesOn := fun v =>
         let u := settle v
         HappensSampling (.statusReadUnanswered attn) s { s.pins with attn := attn }
           (goOn (if polled = true ∧ (∀ c, .statusRead c true ∉ u.bus.turn.rest) then judgePoll attn u else u))
       (x.present = false → goesOn (becomes { x with probe := some 5000 })) ∧
       (x.present = true → x.state = .empty → goesOn (raise .bay
         (becomes { x with present := false, state := .offline, housekeeping := none, probe := some 5000 }))) ∧
       (x.present = true → x.state ≠ .empty → goesOn (becomes { x with housekeeping := timer }))) ∧
  ∀ (b : BayNum) (p : Part),
    let id := newId p
    let x := p.bays[b]
    let q := insertDisc ⟨id, none, .failed, .bay b, none, none, some b, none, none, none, false, some .orphan⟩
      { p with flow := { p.flow with nextId := if id < 65535 then id + 1 else 1 } }
    orphanInBay b p = addOrder .bayToReject id (.bay b) .rejectBin
      { q with bays := put p.bays b { x with state := if x.present then .holding else x.state, disc := some id } }

/-! ## Burn sets -/

/-- R118 to R120: a session whose gather timer expires leaves gathering, and so does one whose job's pick prospect
(R54) is false as the step judges it, the lowest session number first (the order is the model's: log entry 32).
Members whose bay is no longer capable of its media are dropped CALIBRATION without a CLEAR, and a session left
without members ends. The LOADED discs of the others become BURNING with the session's number, their bays BURNING, the
members await, the speed is fixed, and PREPARE is asked for. If the session ended the waiting bays are placed (R117).
A session without a gather timer is left alone by the expiry (log entry 8; at most 20 leavings in one step: log entry
23). -/
def Obligations.GatheringEnds : Prop :=
  (∀ (n : SessionNum) (x : Session) (s : State), s.part.held = false → s.part.engine.sessions[n] = some x →
     let p := s.part
     (x.gather = none → Happens (.gatherTimerExpiry n) s p) ∧
     (x.gather.isSome = true → Happens (.gatherTimerExpiry n) s (settle (leaveAndReap n p))) ∧
     (x.gather.isSome = true → x.state = .gathering → x.members ≠ [] →
       (∀ m ∈ x.members, p.bays[m.bay].capability.speed x.media ≠ 0) →
       let bays := x.members.map (·.bay)
       let request := match p.jobs[x.job] with | some y => y.defn.speed | none => 0
       let q := burnMembers n bays p
       let y := { x with
         gather := none, state := .preparing, speed := some (sessionSpeed p x.media request bays)
         members := x.members.map fun m => { m with prepared := false } }
       Happens (.gatherTimerExpiry n) s (settle { q with
         engine := { p.engine with sessions := put p.engine.sessions n (some y) }
         bus := { p.bus with list := p.bus.list ++ [.prepare n] } }))) ∧
  (∀ (n : SessionNum) (x : Session) (p : Part), p.engine.sessions[n] = some x →
     let holds := fun (q : Part) y =>
       { q with engine := { q.engine with sessions := put q.engine.sessions n (some y) } }
     (x.state ≠ .gathering → leaveGathering n p = p) ∧
     (x.state = .gathering →
       let unfit := (x.members.filter fun m => p.bays[m.bay].capability.speed x.media = 0).map (·.bay)
       let q := dropMembers n .calibration false unfit (holds p { x with gather := none })
       ∀ y, q.engine.sessions[n] = some y →
         (y.members = [] → leaveGathering n p = endSession n q) ∧
         (y.members ≠ [] →
           let bays := y.members.map (·.bay)
           let r := burnMembers n bays q
           let request := match r.jobs[y.job] with | some z => z.defn.speed | none => 0
           leaveGathering n p = holds { r with bus := { r.bus with list := r.bus.list ++ [.prepare n] } } { y with
             state := .preparing, speed := some (sessionSpeed r y.media request bays)
             members := y.members.map fun m => { m with prepared := false } }))) ∧
  (∀ (n : SessionNum) (p : Part), burnMembers n [] p = p ∧
     ∀ (b : BayNum) (bs : List BayNum) (d : Disc), p.bays[b].disc = some d.id → findDisc p d.id = some d →
       (d.state ≠ .loaded → burnMembers n (b :: bs) p = burnMembers n bs p) ∧
       (d.state = .loaded → d.position = .bay b → burnMembers n (b :: bs) p = burnMembers n bs { p with
         flow := { p.flow with discs := p.flow.discs.map fun y =>
           if y.id = d.id then { y with session := some n, state := .burning } else y }
         bays := put p.bays b { p.bays[b] with
           state := if p.bays[b].present then .burning else p.bays[b].state } })) ∧
  ∀ p : Part,
    (∀ j, prospect p j = true ↔
      (∃ before o after d, p.flow.queue = before ++ o :: after ∧ o.kind = .pick ∧ (∀ x ∈ before, x.kind ≠ .pick) ∧
        findDisc p o.disc = some d ∧ d.job = some j ∧ (p.flow.issued = some o ∨ p.flow.held = false ∧
          (o.target = .acceptBin → p.flow.acceptFull = false) ∧ (o.target = .rejectBin → p.flow.rejectFull = false) ∧
          p.thermal.ambient.condition ≠ .critical)) ∨
      p.flow.held = false ∧ p.thermal.ambient.condition ≠ .critical ∧ pickFor p j ≠ none) ∧
    let lost := fun n : SessionNum =>
      ∃ x, p.engine.sessions[n] = some x ∧ x.state = .gathering ∧ prospect p x.job = false
    judgeGathering 0 p = p ∧ ((∀ n, ¬ lost n) → ∀ k, judgeGathering k p = p) ∧
    (∀ n k, lost n → (∀ m : SessionNum, m < n → ¬ lost m) →
      judgeGathering (k + 1) p = judgeGathering k (leaveAndReap n p)) ∧
    ∀ n,
      let q := leaveGathering n p
      (q.engine.sessions[n] = none → leaveAndReap n p = placeWaiting q.engine.waiting.length q) ∧
      (q.engine.sessions[n] ≠ none → leaveAndReap n p = q)

/-- R122 and R128: as the prepare deadline expires the members that have not answered are dropped CALIBRATION, and as
the close deadline expires all members are dropped BURN_ERROR, each with a CLEAR; the session goes on with those left,
or ends. R47, R83, R84 and R130: a drop takes the bay off the session, fails its disc with the reason unless it is
FAILED already and routes it, counts a failure for the bay, which at the third disables it and sets BAY, and asks for
a CLEAR where one is called for. R131: a session without members ends: its record is removed, it is off the grant
ring, its waiting items go unsent. R117: then the waiting bays are placed, the earliest that can be first; a bay that
joins may end gathering. (That members are dropped in the order of the member list, and that a session which a waiting
bay fills leaves gathering before the next bay is placed, is the model's: log entry 7. That an item in the round's
rest waits is log entry 24, that what is on the bus is told to no one log entry 20.) -/
def Obligations.DeadlinesDropMembers : Prop :=
  (∀ (n : SessionNum) (x : Session) (s : State), s.part.held = false → s.part.engine.sessions[n] = some x →
     let p := s.part
     let holds := fun y => { p with engine := { p.engine with sessions := put p.engine.sessions n (some y) } }
     (x.state = .preparing → x.prepare.isSome = true →
       let late := (x.members.filter fun m => !m.prepared).map (·.bay)
       Happens (.prepareDeadlineExpiry n) s (settle (judgePrepared n (reap n
         (dropMembers n .calibration true late (holds { x with prepare := none })))))) ∧
     (x.state = .closing → x.close.isSome = true →
       Happens (.closeDeadlineExpiry n) s (settle (reap n
         (dropMembers n .burnError true (x.members.map (·.bay)) (holds { x with close := none })))))) ∧
  (∀ (n : SessionNum) (why : RejectReason) (clear : Bool) (bs : List BayNum) (p : Part),
     dropMembers n why clear bs p = bs.foldl (fun q b => dropMember n b why clear q) p) ∧
  (∀ (n : SessionNum) (x : Session) (b : BayNum) (d : Disc) (why : RejectReason) (clear : Bool) (p : Part),
     p.engine.sessions[n] = some x → p.bays[b].disc = some d.id → findDisc p d.id = some d →
     let left := put p.engine.sessions n (some { x with members := x.members.filter fun m => m.bay ≠ b })
     let off := { p with engine := { p.engine with sessions := left } }
     let clears := fun q : Part =>
       if clear = true ∧ .clear b ∉ p.bus.list ++ p.bus.turn.rest then
         { q with bus := { p.bus with list := p.bus.list ++ [.clear b] } } else q
     (d.state = .failed → dropMember n b why clear p = clears off) ∧
     (d.position = .bay b → d.state = .burning ∨ why = .calibration ∧ d.state = .loaded →
       let q := failDisc d why off
       let fails := p.bays[b].failures + 1
       let becomes := fun y : Bay => { q with bays := put q.bays b y }
       dropMember n b why clear p = clears (if fails < 3 then becomes { q.bays[b] with failures := fails }
         else raise .bay (becomes { q.bays[b] with failures := 3, enabled := false, disablePending := false })))) ∧
  (∀ (n : SessionNum) (x : Session) (p : Part), p.engine.sessions[n] = some x →
     let q := endSession n p
     (x.members ≠ [] → reap n p = p) ∧ (x.members = [] → reap n p = placeWaiting q.engine.waiting.length q)) ∧
  (∀ (n : SessionNum) (p : Part),
     let q := leaveRing (.broadcast n) p
     let its := [Item.prepare n, .go n, .close n, .readyPoll n]
     let ends := fun turn => endSession n p = { q with
       engine := { q.engine with sessions := put q.engine.sessions n none }
       bus := { q.bus with list := p.bus.list.filter (· ∉ its), turn := turn } }
     (p.engine.sessions[n] = none → reap n p = p) ∧
     (p.bus.turn = .none → ends .none) ∧
     (∀ rest, p.bus.turn = .round none rest → ends (.round none (rest.filter (· ∉ its)))) ∧
     (∀ it live offer rest, p.bus.turn = .round (some ⟨it, live, offer⟩) rest →
       ends (.round (some ⟨it, if it ∈ its then false else live, offer⟩) (rest.filter (· ∉ its)))) ∧
     (∀ m live i data, p.bus.turn = .block m live i data →
       ends (.block m (if m = n then false else live) i data)) ∧
     ∀ k live, p.bus.turn = .talk k live → ends (.talk k live)) ∧
  ∀ p : Part,
    let names := fun (b : BayNum) (j : JobNum) =>
      ∃ id d, p.bays[b].disc = some id ∧ findDisc p id = some d ∧ d.job = some j
    let fits := fun b : BayNum => ∃ j, names b j ∧ placeIn p j b ≠ none
    placeWaiting 0 p = p ∧ ((∀ b ∈ p.engine.waiting, ¬ fits b) → ∀ k, placeWaiting k p = p) ∧
    ∀ k before b after j n q, p.engine.waiting = before ++ b :: after → (∀ c ∈ before, ¬ fits c) → names b j →
      placeIn p j b = some (n, q) →
      let r := judgeFull n { q with engine := { q.engine with waiting := q.engine.waiting.filter (· ≠ b) } }
      let lost := ∃ y, r.engine.sessions[n] = some y ∧ y.state = .gathering ∧ prospect r y.job = false
      (lost → placeWaiting (k + 1) p = placeWaiting k (leaveGathering n r)) ∧
      (¬ lost → placeWaiting (k + 1) p = placeWaiting k r)

/-- R120: the session speed for members of given maximum speeds, 1 to 48, and conditions. -/
def Obligations.SessionSpeedIsFixed : Prop :=
  ∀ (p : Part) (m : Media) (request : Nat) (bays : List BayNum), bays ≠ [] →
    (∀ b ∈ bays, 1 ≤ p.bays[b].capability.speed m ∧ p.bays[b].capability.speed m ≤ 48) →
    let hot := fun c : Condition => c = .high ∨ c = .critical
    let half := fun v : Nat => if v / 2 = 0 then 1 else v / 2
    let member := fun b : BayNum =>
      if hot p.thermal.bays[b].condition then half (p.bays[b].capability.speed m) else p.bays[b].capability.speed m
    ∃ least, (∀ b ∈ bays, least ≤ member b) ∧ (∃ b ∈ bays, member b = least) ∧
      let v := if request ≠ 0 ∧ request < least then request else least
      sessionSpeed p m request bays = (if hot p.thermal.ambient.condition then half v else v) ∧
      1 ≤ sessionSpeed p m request bays ∧ sessionSpeed p m request bays ≤ 48

/-- R121: a PREPARED record with the session's media makes its member PREPARED once PREPARE has been sent; with
another media, or none, the member is dropped CALIBRATION with a CLEAR (also where it is PREPARED already: the model's
reading, log entry 31), and PREPARE_FAILED drops it without one. When all members left are PREPARED the session is
PRIMING with its prime count and joins the grant ring. R127 and R129: a BURN_FAILED in PRIMING, STREAMING or CLOSING
drops its member BURN_ERROR without a CLEAR; a BURN_DONE in CLOSING, once CLOSE has been sent, takes the member off
and makes its disc BURNED with its stall count and no session, the bay's failures 0, and the verifier acts; every
other record is discarded, and so is one of a bay that is no member. -/
def Obligations.PreparedRecordsAreJudged : Prop :=
  (∀ (p : Part) (n : SessionNum) (x : Session) (b : BayNum) (r : StatusRecord),
    sessionOf p b = some n → p.engine.sessions[n] = some x → x.state = .preparing → x.prepare.isSome = true →
    let holds := fun y => { p with engine := { p.engine with sessions := put p.engine.sessions n (some y) } }
    (r.driveState = .prepared → r.mediaPresent = some x.media →
      engineRecord b r p = judgePrepared n (holds { x with
        members := x.members.map fun m => if m.bay = b then { m with prepared := true } else m })) ∧
    (r.driveState = .prepared → r.mediaPresent ≠ some x.media →
      engineRecord b r p = judgePrepared n (reap n (dropMember n b .calibration true p))) ∧
    (r.driveState = .prepareFailed →
      engineRecord b r p = judgePrepared n (reap n (dropMember n b .calibration false p)))) ∧
  (∀ (p : Part) (n : SessionNum) (x : Session), p.engine.sessions[n] = some x → x.state = .preparing →
    (x.members ≠ [] → (∀ m ∈ x.members, m.prepared = true) →
      let prime := p.engine.settings.primeSetting
      judgePrepared n p = { p with
        engine := { p.engine with sessions := put p.engine.sessions n (some { x with
          state := .priming, primeCount := some (if prime ≤ x.blockCount then prime else x.blockCount)
          prepare := none, stall := none, laggardPoll := false }) }
        bus := { p.bus with
          ring := if .broadcast n ∈ p.bus.ring then p.bus.ring else p.bus.ring ++ [.broadcast n]
          fruitless := [] } }) ∧
    ((∃ m ∈ x.members, m.prepared = false) → judgePrepared n p = p)) ∧
  (∀ (p : Part) (b : BayNum), BaysOnce p.engine →
    (∀ (n : SessionNum) (x : Session), p.engine.sessions[n] = some x → (∃ m ∈ x.members, m.bay = b) →
      sessionOf p b = some n) ∧
    ((∀ (n : SessionNum) (x : Session), p.engine.sessions[n] = some x → ∀ m ∈ x.members, m.bay ≠ b) →
      sessionOf p b = none)) ∧
  (∀ (p : Part) (b : BayNum) (r : StatusRecord), sessionOf p b = none → engineRecord b r p = p) ∧
  (∀ (p : Part) (n : SessionNum) (x : Session) (b : BayNum) (r : StatusRecord),
    sessionOf p b = some n → p.engine.sessions[n] = some x →
    let writes := x.state = .priming ∨ x.state = .streaming ∨ x.state = .closing
    (r.driveState = .burnFailed → writes → engineRecord b r p = reap n (dropMember n b .burnError false p)) ∧
    (r.driveState = .burnDone → x.state = .closing → x.close.isSome = true →
      engineRecord b r p = memberBurned n b r.stallCount.toNat p) ∧
    (x.state = .gathering ∨
      (x.state = .preparing ∧ (x.prepare = none ∨ (r.driveState ≠ .prepared ∧ r.driveState ≠ .prepareFailed))) ∨
      (writes ∧ r.driveState ≠ .burnFailed ∧
        (r.driveState ≠ .burnDone ∨ x.state ≠ .closing ∨ x.close = none)) → engineRecord b r p = p)) ∧
  ∀ (p : Part) (n : SessionNum) (x : Session) (b : BayNum) (d : Disc) (stalls : Nat), p.engine.sessions[n] = some x →
    p.bays[b].disc = some d.id → findDisc p d.id = some d → d.state = .burning → d.position = .bay b →
    memberBurned n b stalls p = reap n (afterBurned b { p with
      engine := { p.engine with
        sessions := put p.engine.sessions n (some { x with members := x.members.filter fun m => m.bay ≠ b }) }
      flow := { p.flow with discs := p.flow.discs.map fun y =>
        if y.id = d.id then { y with stalls := some stalls, session := none, state := .burned } else y }
      bays := put p.bays b { p.bays[b] with
        failures := 0, state := if p.bays[b].present then .burned else p.bays[b].state } })

/-- R115 and R149: BURN SETTINGS and VERIFY LIMITS keep what they leave out, clamp what they are given, raise each
grade limit to the one before it, answer with the values as they stand after the command, and say DONE_CLAMPED exactly
when a value was changed on the way. -/
def Obligations.BurnAndGradeSettings : Prop :=
  ∀ (l : Link) (fill : Nat) (s : State), LinkOpen l s →
    let old := s.part.engine.settings
    let lim := s.part.verifier.limits
    let given := fun (x : Option Nat) keep => x.getD keep
    let kept := fun (lo hi keep : Nat) (x : Option Nat) => x.elim keep (clampNat lo hi)
    (∀ g0 g1 pr st : Byte,
      let g := if num16 g0 g1 = 65535 then none else some (num16 g0 g1)
      let q := if pr = 0xFF#8 then none else some pr.toNat
      let t := if st = 0xFF#8 then none else some st.toNat
      let new : BurnSettings :=
        ⟨kept 0 600 old.gatherTime g, kept 4 64 old.primeSetting q, kept 1 40 old.stallTime t⟩
      let same := new = ⟨given g old.gatherTime, given q old.primeSetting, given t old.stallTime⟩
      let answer := le16 new.gatherTime ++ [byte new.primeSetting, byte new.stallTime]
      Completes .burnSettings l [g0, g1, pr, st] fill s (if same then .done answer else .doneClamped answer)
        { s.part with engine := { s.part.engine with settings := new } }) ∧
    ∀ a0 a1 b0 b1 c0 c1 : Byte,
      let word := fun x y : Byte => if num16 x y = 65535 then none else some (num16 x y)
      let a := kept 0 8128 lim.la (word a0 a1)
      let b := kept 0 8128 lim.lb (word b0 b1)
      let c := kept 0 8128 lim.lc (word c0 c1)
      let lb := if b < a then a else b
      let lc := if c < lb then lb else c
      let same := a = given (word a0 a1) lim.la ∧ b = given (word b0 b1) lim.lb ∧ c = given (word c0 c1) lim.lc ∧
        lb = b ∧ lc = c
      let answer := le16 a ++ le16 lb ++ le16 lc
      Completes .verifyLimits l [a0, a1, b0, b1, c0, c1] fill s (if same then .done answer else .doneClamped answer)
        { s.part with verifier := { s.part.verifier with limits := ⟨a, lb, lc⟩ } }

/-- R134, R151, R174 and R183: SESSION STATUS, VERIFY STATUS, PRINTER STATUS and THERMAL READ answer with the record
of 12.5 and change nothing (PRINTER STATUS reads the two switches); a session above 3 is refused with RANGE. The
layouts of 12.5, field by field with the markers of R208 and the temperature words of R209 (the lower 10 bits in two's
complement, the upper 6 zero): the slot, job, disc, bay, session, verify, printer and thermal records and the results
entry; timers in quarter seconds, the hot timer in whole seconds, both rounded up. The codes of 12.4. (An EMPTY slot
has no record of its own in the model: its state byte is 0 and its counts are 0.) -/
def Obligations.RecordsAreRead : Prop :=
  (∀ (l : Link) (fill : Nat) (s : State), LinkOpen l s →
    (∀ n : SessionNum, Completes .sessionStatus l [byte n.val] fill s (.done (sessionRecord s.part n)) s.part) ∧
    (∀ b : Byte, 3 < b.toNat → Completes .sessionStatus l [b] fill s (.refused .range []) s.part) ∧
    Completes .verifyStatus l [] fill s (.done (verifyRecord s.part)) s.part ∧
    Completes .thermalRead l [] fill s (.done (thermalRecord s.part)) s.part ∧
    ∀ broken tray : Bool, ∃ t, exec (.printerStatus l [] fill broken tray) s = .next t ∧
      t.pending = s.pending ∧ t.pins = { s.pins with breakShown := broken, trayShown := tray } ∧ KeepsMemory s t ∧
      AnsweredWith l (5 + fill) (.done (printerRecord s.part t.pins)) s t ∧ t.part = s.part) ∧
  (let yes := fun b : Bool => [if b then (1 : Byte) else 0]
   let one := fun n : Option Nat => match n with | none => [0xFF#8] | some n => [byte n]
   let two := fun n : Option Nat => match n with | none => [0xFF#8, 0xFF#8] | some n => le16 n
   let disc := fun n : Option Nat => match n with | none => [(0 : Byte), 0] | some n => le16 n
   let temp := fun t : Option Int => match t with | none => [0xFF#8, 0xFF#8] | some t => le16 (tempWord t)
   let timer := fun t : Option Nat => match t with | none => [0xFF#8, 0xFF#8] | some ms => le16 ((ms + 249) / 250)
   (∀ t : Int, -512 ≤ t → t ≤ 511 → tempWord t < 1024 ∧ tempWord t = if 0 ≤ t then t.toNat else (t + 1024).toNat) ∧
   (∀ n : SlotNum, slotRecord n none = [byte n.val, 0] ++ List.replicate 17 0xFF#8 ++ List.replicate 8 0) ∧
   (∀ (n : SlotNum) (x : Slot), slotRecord n (some x) = [byte n.val, byte x.state.code, byte x.kind.code] ++
     le32 x.length ++ le32 x.blockCount ++ le16 x.chunkCount ++ le32 x.fill ++ le16 x.first ++ [byte x.refs] ++
     le16 x.digests.length ++ (match x.digest with | none => [0, 0, 0, 0, 0] | some d => 1 :: le32 d.toNat)) ∧
   (∀ (p : Part) (j : JobNum) (x : Job),
     let d := x.defn
     jobRecord p j x = [byte j.val, byte x.state.code, byte d.discSlot.val, byte d.media.code] ++ le16 d.target ++
       [byte d.setSize, byte d.speed, byte d.verify.code] ++ one (d.gradeLimit.map (·.rank)) ++
       [byte d.stallAllowance] ++ one (d.labelSlot.map (·.val)) ++ [BitVec.ofInt 8 d.trim] ++ le16 d.rejectLimit ++
       le16 x.picked ++ le16 x.accepted ++ le16 x.rejected ++
       [byte (p.flow.discs.filter fun e => e.job = some j).length] ++ one (x.haltReason.map (·.code))) ∧
   (∀ (p : Part) (d : Disc) (mark : Byte),
     ((∀ o ∈ p.flow.queue, o.disc ≠ d.id) ∧ mark = 0 ∨
       (∃ before o after, p.flow.queue = before ++ o :: after ∧ (∀ x ∈ before, x.disc ≠ d.id) ∧ o.disc = d.id ∧
         mark = if p.flow.issued = some o then 2 else 1)) →
     discRecord p d = le16 d.id ++ one (d.job.map (·.val)) ++ [byte d.state.code, byte d.position.code] ++
       one (d.destination.map (·.code)) ++ one (d.session.map (·.val)) ++ one (d.loadBay.map (·.val)) ++ two d.stalls ++
       one (d.grade.map (·.rank)) ++ two d.peak ++ yes d.printed ++ one (d.reason.map (·.code)) ++ [mark]) ∧
   (∀ (p : Part) (b : BayNum),
     let x := p.bays[b]
     bayRecord p b = [byte b.val] ++ yes x.present ++ yes x.enabled ++ yes x.disablePending ++
       [byte x.capability.cd, byte x.capability.dvd, byte x.capability.bd, byte x.state.code] ++ disc x.disc ++
       temp x.temperature ++ [byte x.failures] ++ two x.errorCode ++ [byte p.thermal.bays[b].condition.rank] ++
       one ((sessionOf p b).map (·.val))) ∧
   (∀ (p : Part) (n : SessionNum),
     let waiting := [byte p.engine.waiting.length] ++ p.engine.waiting.map fun b => byte b.val
     (p.engine.sessions[n] = none → sessionRecord p n = [byte n.val, 0xFF#8] ++ waiting) ∧
     ∀ x, p.engine.sessions[n] = some x → sessionRecord p n =
       [byte n.val, byte x.state.code, byte x.job.val, byte x.slot.val, byte x.media.code] ++ le32 x.blockCount ++
       le32 x.cursor ++ one x.primeCount ++ one x.speed ++ timer x.gather ++ timer x.prepare ++ timer x.stall ++
       timer x.close ++ yes x.laggardPoll ++ [byte x.members.length] ++
       (x.members.flatMap fun m => byte m.bay.val :: yes m.prepared) ++ waiting) ∧
   (∀ (p : Part),
     let place := fun r : Option Readback => match r with
       | none => [(0 : Byte), 0xFF, 0, 0] ++ List.replicate 21 0xFF#8
       | some r => [1, byte r.bay.val] ++ le16 r.disc ++ [byte r.job.val, byte r.slot.val] ++ le32 r.blockCount ++
         yes r.sent ++ le32 r.taken ++ le32 r.processed ++ le16 r.errorSum ++ le16 r.peak ++ timer r.silence
     let lim := p.verifier.limits
     verifyRecord p = [byte p.verifier.queue.length] ++
       (p.verifier.queue.flatMap fun b => byte b.val :: disc p.bays[b].disc) ++ place p.verifier.places[0] ++
       place p.verifier.places[1] ++ le16 lim.la ++ le16 lim.lb ++ le16 lim.lc) ∧
   (∀ (p : Part) (pins : Pins),
     let r := p.printer
     let x := r.settings
     printerRecord p pins = [byte r.state.code] ++ disc r.disc ++ one (r.status.map (·.code)) ++
       (match r.label with
        | none => [0xFF#8, 0xFF#8, 0xFF#8, 0x80#8, 0xFF#8, 0xFF#8]
        | some y => [byte y.slot.val] ++ le16 y.length ++ [BitVec.ofInt 8 y.trim] ++ le16 y.cursor) ++
       le32 r.ribbon ++ le16 r.strobe ++ [byte r.pace.code] ++ one (r.hot.map fun ms => (ms + 999) / 1000) ++
       (match r.last with
        | none => List.replicate 10 0xFF#8
        | some y => le16 (tempWord y.q) ++ le16 y.f ++ le16 y.t0 ++ le16 y.t1 ++ le16 y.t2) ++
       le16 x.ri ++ le16 x.ro ++ [byte x.kt] ++ le16 x.m0 ++ le16 x.m1 ++ le16 x.m2 ++ le16 x.tmin ++ le16 x.tmax ++
       yes pins.breakShown ++ yes pins.trayShown) ∧
   (∀ (p : Part),
     let sensor := fun x : Sensor => temp x.reading ++ [byte x.condition.rank]
     let pair := fun x : LimitPair => le16 (tempWord x.high) ++ le16 (tempWord x.critical)
     let y := p.thermal
     thermalRecord p = sensor y.head ++ sensor y.ambient ++ ((List.finRange 10).flatMap fun b => sensor y.bays[b]) ++
       pair y.limits.head ++ pair y.limits.ambient ++ pair y.limits.bay) ∧
   ∀ e : ResultEntry, resultBytes e = le16 e.disc ++ one (e.job.map (·.val)) ++ [byte e.outcome.code] ++
     one (e.reason.map (·.code)) ++ one (e.grade.map (·.rank)) ++ two e.stalls ++ one (e.bay.map (·.val)) ++
     yes e.printed) ∧
  [ImageKind.disc, .label].map (·.code) = [0, 1] ∧ [SlotState.filling, .frozen, .retiring].map (·.code) = [1, 2, 3] ∧
  [Media.cd, .dvd, .bd].map (·.code) = [0, 1, 2] ∧
  [JobState.draft, .queued, .running, .halting, .halted, .cancelling, .done, .cancelled].map (·.code) =
    List.range 8 ∧
  [VerifyMode.none, .digest, .graded].map (·.code) = [0, 1, 2] ∧
  [Grade.a, .b, .c, .d].map (·.rank) = List.range 4 ∧ [HaltReason.operator, .rejectLimit].map (·.code) = [0, 1] ∧
  [DiscState.bound, .loaded, .burning, .burned, .verifyWait, .verifying, .passed, .printWait, .printing, .printed,
    .failed].map (·.code) = List.range 11 ∧
  (∀ (n : SpindleNum) (b : BayNum), [Position.spindle n, .bay b, .tray, .acceptBin, .rejectBin].map (·.code) =
    [n.val, 2 + b.val, 12, 13, 14]) ∧
  [RejectReason.burnError, .calibration, .laggard, .verifyMismatch, .verifyUnreadable, .grade, .printFault, .cancelled,
    .dropped, .orphan].map (·.code) = List.range 10 ∧
  [MoveKind.pick, .bayToPrinter, .bayToAccept, .bayToReject, .printerToAccept, .printerToReject].map (·.code) =
    List.range 6 ∧
  [BayState.offline, .empty, .reserved, .loaded, .burning, .burned, .verifying, .holding].map (·.code) =
    List.range 8 ∧
  [SessionState.gathering, .preparing, .priming, .streaming, .closing].map (·.code) = List.range 5 ∧
  [PrinterState.idle, .printing, .pausedHot, .pausedRibbon, .doneWait].map (·.code) = List.range 5 ∧
  [LabelStatus.underWay, .finished, .aborted, .notPrinted].map (·.code) = List.range 4 ∧
  [Pace.full, .half].map (·.code) = [0, 1] ∧ [Condition.normal, .high, .critical].map (·.rank) = [0, 1, 2] ∧
  [DiscOutcome.accepted, .rejected].map (·.code) = [0, 1]

/-! ## Verification -/

/-- R140 to R143: the first held block is checked. A trailer of 255 ends the readback VERIFY_UNREADABLE; otherwise its
image bytes join the chunk's CRC and its trailer the error sum; at a chunk's last block a digest that differs ends it
VERIFY_MISMATCH, one that agrees raises the peak, and at the image's last block the disc is graded. R144: a silence
timer that expires ends it VERIFY_UNREADABLE. R146 and R147: the grade of a peak and a stall count; FAILED GRADE when
the mode is GRADED and the grade is below the limit, PASSED otherwise. R143 and R148: an ended readback is off the
ring, its items unsent, its place free. R136: a BURNED disc passes under mode NONE; otherwise its bay joins the verify
queue and it is VERIFY_WAIT. R137 and R138: while a place is free the head of the queue takes the lowest, its disc
VERIFYING, and READBACK is asked for. (Only a running silence timer expires: log entry 8; what is on the bus for an
ended readback is told to no one: log entry 20.) -/
def Obligations.ReadbackIsJudged : Prop :=
  (∀ (k : PlaceNum) (r : Readback) (h : HeldBlock) (rest : List HeldBlock) (s : State),
     s.part.held = false → s.part.verifier.places[k] = some r → r.held = h :: rest →
     let p := s.part
     let last := r.processed + 1 = r.blockCount
     let n := if last then 2048 * r.length - 65536 * r.processed else 65536
     let y := { r with
       held := rest, processed := r.processed + 1, crc := crc32Feed r.crc (h.data.take n)
       errorSum := r.errorSum + h.trailer.toNat, silence := some 10000 }
     let z := { y with crc := 0xFFFFFFFF#32, errorSum := 0, peak := max r.peak y.errorSum }
     let agrees := ∃ x, p.slots[r.slot] = some x ∧ x.digests[r.processed / 32]? = some (crc32Finish y.crc)
     let holds := fun x => { p with verifier := { p.verifier with places := put p.verifier.places k (some x) } }
     let ends := fun q => Happens (.blockProcessed k) s (settle q)
     (h.trailer = 255#8 → ends (endEarly k .verifyUnreadable p)) ∧
     (h.trailer ≠ 255#8 → r.processed % 32 ≠ 31 → ¬ last → ends (holds y)) ∧
     (h.trailer ≠ 255#8 → r.processed % 32 = 31 ∨ last →
       (¬ agrees → ends (endEarly k .verifyMismatch p)) ∧
       (agrees → ¬ last → ends (holds z)) ∧
       (agrees → last → ends (gradeReadback k z (holds z))))) ∧
  (∀ (k : PlaceNum) (r : Readback) (d : Disc) (s : State),
     s.part.held = false → s.part.verifier.places[k] = some r → findDisc s.part r.disc = some d → d.state = .verifying →
     (∀ why, endEarly k why s.part = startReadbacks (setPlace k none
       (ask (.clear r.bay) (failDisc d why (busForgetPlace k s.part))))) ∧
     (r.silence.isSome = true → Happens (.silenceTimerExpiry k) s (settle (endEarly k .verifyUnreadable s.part))) ∧
     (r.silence = none → Happens (.silenceTimerExpiry k) s s.part)) ∧
  (∀ (k : PlaceNum) (p : Part),
     let q := leaveRing (.readback k) p
     let ends := fun turn =>
       let gone := { q with bus := { q.bus with list := p.bus.list.filter (· ≠ .readback k), turn := turn } }
       busForgetPlace k p = gone ∧
       removeReadback k p = startReadbacks { gone with
         verifier := { gone.verifier with places := put gone.verifier.places k none } }
     (p.bus.turn = .none → ends .none) ∧
     (∀ rest, p.bus.turn = .round none rest → ends (.round none (rest.filter (· ≠ .readback k)))) ∧
     (∀ it live offer rest, p.bus.turn = .round (some ⟨it, live, offer⟩) rest →
       ends (.round (some ⟨it, if it = .readback k then false else live, offer⟩) (rest.filter (· ≠ .readback k)))) ∧
     (∀ n live i data, p.bus.turn = .block n live i data → ends (.block n live i data)) ∧
     ∀ j live, p.bus.turn = .talk j live → ends (.talk j (if j = k then false else live))) ∧
  (∀ (d : Disc) (b : BayNum) (f : Disc → Disc) (p : Part), d.position = .bay b →
     passDisc d f p = routePassed d { p with
       flow := { p.flow with discs := p.flow.discs.map fun x =>
         if x.id = d.id then { f x with state := .passed } else x }
       bays := put p.bays b { p.bays[b] with
         state := if p.bays[b].present then .holding else p.bays[b].state } }) ∧
  (∀ (k : PlaceNum) (r : Readback) (d : Disc) (x : Job) (p : Part),
     findDisc p r.disc = some d → d.state = .verifying → p.jobs[r.job] = some x →
     let lim := p.verifier.limits
     let late := x.defn.stallAllowance < r.stalls
     let g : Grade :=
       if r.peak ≤ lim.la then (if late then .b else .a)
       else if r.peak ≤ lim.lb then (if late then .c else .b)
       else if r.peak ≤ lim.lc then (if late then .d else .c)
       else .d
     let note := fun d : Disc => { d with grade := some g, peak := some r.peak }
     let worse := x.defn.verify = .graded ∧ ∃ y, x.defn.gradeLimit = some y ∧ y.rank < g.rank
     (¬ worse → gradeReadback k r p = removeReadback k (passDisc d note p)) ∧
     (worse → gradeReadback k r p = removeReadback k (failDisc d .grade (modDisc d.id note p)))) ∧
  (∀ (b : BayNum) (d : Disc) (j : JobNum) (x : Job) (p : Part), p.bays[b].disc = some d.id → findDisc p d.id = some d →
     d.position = .bay b → d.job = some j → p.jobs[j] = some x →
     (x.defn.verify = .none → afterBurned b p = passDisc d id p) ∧
     (x.defn.verify ≠ .none → afterBurned b p = startReadbacks { p with
       flow := { p.flow with discs := p.flow.discs.map fun y =>
         if y.id = d.id then { y with state := .verifyWait } else y }
       bays := put p.bays b { p.bays[b] with state := if p.bays[b].present then .burned else p.bays[b].state }
       verifier := { p.verifier with
         queue := if b ∈ p.verifier.queue then p.verifier.queue else p.verifier.queue ++ [b] } })) ∧
  (∀ p : Part, startReadbacks p = startOne (startOne p) ∧
     (p.verifier.queue = [] ∨ (∀ k : PlaceNum, p.verifier.places[k] ≠ none) → startOne p = p)) ∧
  ∀ (k : PlaceNum) (b : BayNum) (rest : List BayNum) (d : Disc) (j : JobNum) (x : Job) (y : Slot) (p : Part),
    p.verifier.places[k] = none → (∀ i : PlaceNum, i < k → p.verifier.places[i] ≠ none) →
    p.verifier.queue = b :: rest → p.bays[b].disc = some d.id → findDisc p d.id = some d → d.position = .bay b →
    d.state = .verifyWait → d.job = some j → p.jobs[j] = some x → p.slots[x.defn.discSlot] = some y →
    startOne p = { p with
      flow := { p.flow with discs := p.flow.discs.map fun z =>
        if z.id = d.id then { z with state := .verifying } else z }
      bays := put p.bays b { p.bays[b] with state := if p.bays[b].present then .verifying else p.bays[b].state }
      verifier := { p.verifier with
        queue := rest
        places := put p.verifier.places k (some ⟨b, d.id, j, x.defn.discSlot, y.length, y.blockCount, d.stalls.getD 0,
          false, 0, 0, [], 0xFFFFFFFF#32, 0, 0, none⟩) }
      bus := { p.bus with list := p.bus.list ++ [.readback k] } }

/-! ## Label printing -/

/-- R158 to R162: at a line boundary a ribbon at 0 aborts the label; otherwise HEAD is sampled, and CRITICAL pauses
the printer with its hot timer at 120 s and sets PRINTER. Otherwise the line is fired: pace, factor, the three times,
and a strobe for each class with a dot. R19 and R155: the line is the 180 bytes of image memory from byte 180 y of the
slot's image, blank from the declared length on; dot x is bit 7 - x mod 8 of byte x / 8. (The order of the classes, 0
first, is the model's: log entry 12.) -/
def Obligations.LineBegins : Prop :=
  ∀ (v : Int) (x : Label) (y : Slot) (s : State), s.part.held = false → s.part.printer.label = some x →
    s.part.printer.state = .printing → s.part.printer.firing = none → s.part.printer.gap = none →
    s.part.slots[x.slot] = some y → y.first + y.chunkCount ≤ 16384 →
    let p := s.part
    let q := clampInt (-160) 511 v
    let sampled := sampleHead v p
    let head := sampled.thermal.head.condition
    (p.printer.ribbon = 0 → Happens (.lineBegin v) s (settle (abortLabel .pausedRibbon p))) ∧
    (0 < p.printer.ribbon → head = .critical →
      Happens (.lineBegin v) s (raise .printer
        { sampled with printer := { p.printer with state := .pausedHot, hot := some 120000 } })) ∧
    (0 < p.printer.ribbon → head ≠ .critical → Memory.wf s.mem →
      let r := p.printer.settings
      let f := (clampInt 2048 6144 (4096 - (r.kt : Int) * (q - 100))).toNat
      let time := fun h : Fin 3 => clampNat r.tmin r.tmax
        ((p.printer.strobe * (32 + x.trim).toNat * f * r.mult h + 16777216) / 33554432)
      let line := fun i => if x.cursor < y.length then readByte s.mem (y.first * 2097152 + 180 * x.cursor + i) else 0
      ∃ (printed : DotSet) (strobes : List Strobe),
        (∀ c, c < 1440 → (printed.getLsbD c = true ↔
          (line (c / 8)).getLsbD (7 - c % 8) = true ∧
          let d := (2 * (c : Int) - 1439) ^ 2 + (2 * (x.cursor : Int) - 1439) ^ 2
          4 * (r.ri : Int) ^ 2 ≤ d ∧ d ≤ 4 * (r.ro : Int) ^ 2)) ∧
        (∀ e ∈ strobes, e.time = time e.cls ∧ e.dots ≠ 0) ∧ (strobes.map (·.cls)).Pairwise (· < ·) ∧
        (∀ (h : Fin 3) (c : Nat), (∃ e ∈ strobes, e.cls = h ∧ e.dots.getLsbD c = true) ↔
          printed.getLsbD c = true ∧
          h = if x.history1.getLsbD c then 2 else if x.history2.getLsbD c then 1 else 0) ∧
        Happens (.lineBegin v) s { sampled with printer := { p.printer with
          pace := if head = .normal then .full else .half
          last := some ⟨q, f, time 0, time 1, time 2⟩
          firing := some ⟨printed, strobes⟩ } })

/-- R158 (steps 8 to 10) and R163: as a line's last class has fired, the ribbon falls by one line, the cursor moves on
and the history takes the printed set. At pace HALF with a dot fired, the cooling gap runs for the longest time fired.
After it, or without one, the label is finished at its last line, and otherwise the next line may begin. R58 and R164:
a finished label's disc becomes PRINTED and is ordered to the accept bin, the printer DONE_WAIT; an aborted one is
ABORTED, PRINTER is set, and its disc fails PRINT_FAULT; a label that is not UNDER_WAY is not aborted. -/
def Obligations.LinesAndLabelsEnd : Prop :=
  (∀ (x : Label) (s : State), s.part.held = false → s.part.printer.label = some x →
     let p := s.part
     let holds := fun r : Printer => { p with printer := r }
     (∀ f, p.printer.firing = some f →
       let y := { x with cursor := x.cursor + 1, history1 := f.printed, history2 := x.history1 }
       let r := { p.printer with ribbon := p.printer.ribbon - 1, label := some y, firing := none }
       (p.printer.pace = .half → f.strobes ≠ [] →
         ∃ gap, (∀ e ∈ f.strobes, e.time ≤ gap) ∧ (∃ e ∈ f.strobes, e.time = gap) ∧
           Happens .lineFired s (holds { r with gap := some gap })) ∧
       (p.printer.pace = .full ∨ f.strobes = [] →
         (y.cursor = x.length → Happens .lineFired s (settle (finishLabel (holds { r with gap := none })))) ∧
         (y.cursor ≠ x.length → Happens .lineFired s (settle (holds { r with gap := none }))))) ∧
     (p.printer.gap.isSome = true →
       (x.cursor = x.length → Happens .coolingGapEnd s (settle (finishLabel (holds { p.printer with gap := none })))) ∧
       (x.cursor ≠ x.length → Happens .coolingGapEnd s (settle (holds { p.printer with gap := none }))))) ∧
  (∀ (d : Disc) (p : Part), p.printer.disc = some d.id → findDisc p d.id = some d → d.state = .printing →
     d.position = .tray →
     let finished := { p with
       printer := { p.printer with state := .doneWait, status := some .finished }
       flow := { p.flow with discs := p.flow.discs.map fun x =>
         if x.id = d.id then { x with printed := true, state := .printed } else x } }
     finishLabel p = addOrder .printerToAccept d.id .tray .acceptBin finished ∧
     ∀ st : PrinterState,
       (p.printer.status = some .underWay → abortLabel st p = failDisc d .printFault (raise .printer { p with
         printer := { p.printer with
           state := st, status := some .aborted, hot := none, firing := none, gap := none } })) ∧
       (p.printer.status ≠ some .underWay → abortLabel st p = p))

/-- R167, R168 and R171: the hot timer's expiry aborts the label and leaves the printer PAUSED_HOT. A ribbon break
puts the ribbon at 0: it aborts a label under way, leaving PAUSED_RIBBON, or PAUSED_HOT if the printer was that; an
IDLE printer becomes PAUSED_RIBBON and sets PRINTER; PAUSED_RIBBON and DONE_WAIT stay. As HEAD falls from CRITICAL to
HIGH, a label under way goes on; else a ribbon at 0 makes a PAUSED_HOT printer PAUSED_RIBBON and sets PRINTER, a disc
in the tray makes it DONE_WAIT, and none IDLE. (An expiry without a running hot timer does nothing: log entry 8.) -/
def Obligations.HeatAndRibbonActOnTheLabel : Prop :=
  (∀ s : State, s.part.held = false →
     let p := s.part
     let holds := fun r : Printer => { p with printer := r }
     (p.printer.hot.isSome = true →
       Happens .hotTimerExpiry s (settle (abortLabel .pausedHot (holds { p.printer with hot := none })))) ∧
     (p.printer.hot = none → Happens .hotTimerExpiry s p) ∧
     let bare := holds { p.printer with ribbon := 0 }
     let breaks := HappensSampling .ribbonBreak s { s.pins with breakShown := true }
     (p.printer.state = .printing → breaks (settle (abortLabel .pausedRibbon bare))) ∧
     (p.printer.state = .pausedHot → breaks (settle (abortLabel .pausedHot bare))) ∧
     (p.printer.state = .idle →
       breaks (settle (raise .printer (holds { p.printer with ribbon := 0, state := .pausedRibbon })))) ∧
     (p.printer.state = .pausedRibbon ∨ p.printer.state = .doneWait → breaks (settle bare))) ∧
  (∀ p : Part,
     let becomes := fun st => { p with printer := { p.printer with state := st } }
     (p.printer.state ≠ .pausedHot → headCooled p = p) ∧
     (p.printer.state = .pausedHot →
       (p.printer.status = some .underWay →
         headCooled p = { p with printer := { p.printer with state := .printing, hot := none } }) ∧
       (p.printer.status ≠ some .underWay →
         (p.printer.ribbon = 0 → headCooled p = raise .printer (becomes .pausedRibbon)) ∧
         (0 < p.printer.ribbon → p.printer.disc ≠ none → headCooled p = becomes .doneWait) ∧
         (0 < p.printer.ribbon → p.printer.disc = none → headCooled p = becomes .idle))))

/-- R165: PRINT SETTINGS writes the values it carries and settles all eight in the order given, whether given or kept;
it answers with the eight as they stand, DONE_CLAMPED exactly when settling changed one. -/
def Obligations.PrintSettingsAreSettled : Prop :=
  ∀ (l : Link) (a0 a1 b0 b1 k c0 c1 d0 d1 e0 e1 f0 f1 g0 g1 : Byte) (fill : Nat) (s : State), LinkOpen l s →
    let old := s.part.printer.settings
    let word := fun (x y : Byte) (keep : Nat) => if num16 x y = 65535 then keep else num16 x y
    let given : PrintSettings :=
      ⟨word a0 a1 old.ri, word b0 b1 old.ro, if k = 0xFF#8 then old.kt else k.toNat, word c0 c1 old.m0,
        word d0 d1 old.m1, word e0 e1 old.m2, word f0 f1 old.tmin, word g0 g1 old.tmax⟩
    let ro := clampNat 1 1018 given.ro
    let tmin := clampNat 50 2500 given.tmin
    let tmax := clampNat 50 2500 given.tmax
    let new : PrintSettings :=
      ⟨clampNat 0 (ro - 1) given.ri, ro, clampNat 0 40 given.kt, clampNat 64 256 given.m0, clampNat 64 256 given.m1,
        clampNat 64 256 given.m2, tmin, if tmax < tmin then tmin else tmax⟩
    let answer := le16 new.ri ++ le16 new.ro ++ [byte new.kt] ++ le16 new.m0 ++ le16 new.m1 ++ le16 new.m2 ++
      le16 new.tmin ++ le16 new.tmax
    Completes .printSettings l [a0, a1, b0, b1, k, c0, c1, d0, d1, e0, e1, f0, f1, g0, g1] fill s
      (if new = given then .done answer else .doneClamped answer)
      { s.part with printer := { s.part.printer with settings := new } }

/-- R170: RIBBON LOADED without a length is refused with RANGE, and with the switch showing a break, or while the
printer is PRINTING or PAUSED_HOT, with STATE; otherwise length and base strobe are clamped and become the ribbon and
strobe, and the state changes as R170's table says. The switch is read as the command is taken. -/
def Obligations.RibbonLoadedIsTaken : Prop :=
  ∀ (l : Link) (l0 l1 l2 l3 t0 t1 : Byte) (broken : Bool) (fill : Nat) (s : State), LinkOpen l s →
    let p := s.part
    let length := num32 l0 l1 l2 l3
    let completes := fun resp part => ∃ t, exec (.ribbonLoaded l [l0, l1, l2, l3, t0, t1] fill broken) s = .next t ∧
      t.pending = s.pending ∧ t.pins = { s.pins with breakShown := broken } ∧ KeepsMemory s t ∧
      AnsweredWith l (11 + fill) resp s t ∧ t.part = part
    let busy := p.printer.state = .printing ∨ p.printer.state = .pausedHot
    (length = 4294967295 → completes (.refused .range []) p) ∧
    (length ≠ 4294967295 → broken = true ∨ busy → completes (.refused .state []) p) ∧
    (length ≠ 4294967295 → broken = false → ¬ busy →
      let n := if 4000000 < length then 4000000 else length
      let tb := if num16 t0 t1 = 65535 then p.printer.strobe else clampNat 100 2000 (num16 t0 t1)
      let same := n = length ∧ (num16 t0 t1 = 65535 ∨ tb = num16 t0 t1)
      let answer := le32 n ++ le16 tb
      let resp := if same then Response.done answer else .doneClamped answer
      let becomes := fun st => { p with printer := { p.printer with ribbon := n, strobe := tb, state := st } }
      (p.printer.state = .idle → 0 < n → completes resp (settle (becomes .idle))) ∧
      (p.printer.state = .idle → n = 0 → completes resp (settle (raise .printer (becomes .pausedRibbon)))) ∧
      (p.printer.state = .pausedRibbon → 0 < n → p.printer.disc = none → completes resp (settle (becomes .idle))) ∧
      (p.printer.state = .pausedRibbon → 0 < n → p.printer.disc ≠ none →
        completes resp (settle (becomes .doneWait))) ∧
      (p.printer.state = .pausedRibbon → n = 0 → completes resp (settle (becomes .pausedRibbon))) ∧
      (p.printer.state = .doneWait → completes resp (settle (becomes .doneWait))))

/-! ## Thermal monitoring -/

/-- R176, R180 and R181: a sample's reading is taken as the nearer end of -160 to 511, the condition is judged by the
table of R180, a rise sets THERMAL, and the periodic timer of HEAD and AMBIENT restarts at 1 s. -/
def Obligations.SamplesAreJudged : Prop :=
  (∀ (lim : LimitPair) (before : Condition) (r : Int), lim.high + 8 ≤ lim.critical →
    judge lim before r =
      match before with
      | .normal => if r < lim.high then .normal else if r < lim.critical then .high else .critical
      | .high => if r < lim.high - 8 then .normal else if r < lim.critical then .high else .critical
      | .critical => if r < lim.critical - 8 then .high else .critical) ∧
  ∀ (v : Int) (s : State), s.part.held = false →
    let p := s.part
    let th := p.thermal
    let q := clampInt (-160) 511 v
    let marks := fun (a b : Condition) r => if a = .normal ∧ b ≠ .normal ∨ a = .high ∧ b = .critical then
      raise .thermal r else r
    (let c := judge th.limits.ambient th.ambient.condition q
     Happens (.ambientPeriodicSample v) s (settle (marks th.ambient.condition c
      { p with thermal := { th with ambient := ⟨some q, c, some 1000⟩ } }))) ∧
    (let c := judge th.limits.head th.head.condition q
     let r := marks th.head.condition c { p with thermal := { th with head := ⟨some q, c, some 1000⟩ } }
     sampleHead v p = r ∧
      (th.head.condition = .critical → c = .high → Happens (.headPeriodicSample v) s (settle (headCooled r))) ∧
      (th.head.condition ≠ .critical ∨ c ≠ .high → Happens (.headPeriodicSample v) s (settle r))) ∧
    ∀ b : BayNum,
      let c := judge th.limits.bay th.bays[b].condition q
      sampleBay b v p = marks th.bays[b].condition c
        { p with thermal := { th with bays := put th.bays b ⟨some q, c, th.bays[b].timer⟩ } }

/-- R182 and R209: THERMAL LIMITS refuses a word with a bit set above its lower 10 that is not the marker, with RANGE;
otherwise it keeps what it leaves out and settles each pair in the steps of R182, given or kept. It answers with the
six limits in temperature words (the lower 10 bits in two's complement, the upper 6 zero), DONE_CLAMPED exactly when
settling changed one. No condition changes. -/
def Obligations.ThermalLimitsAreSettled : Prop :=
  ∀ (l : Link) (a0 a1 b0 b1 c0 c1 d0 d1 e0 e1 f0 f1 : Byte) (fill : Nat) (s : State), LinkOpen l s →
    let old := s.part.thermal.limits
    let bad := fun x y : Byte => 1024 ≤ num16 x y ∧ num16 x y ≠ 65535
    let word := fun (x y : Byte) (keep : Int) =>
      if num16 x y = 65535 then keep else if num16 x y < 512 then (num16 x y : Int) else (num16 x y : Int) - 1024
    let settled := fun g : LimitPair =>
      let h := clampInt (-160) 511 g.high
      let h := if 503 < h then 503 else h
      let c := clampInt (-160) 511 g.critical
      (⟨h, if c < h + 8 then h + 8 else c⟩ : LimitPair)
    let out := fun t : Int => le16 (if 0 ≤ t then t.toNat else (t + 1024).toNat)
    let bytes := fun g : LimitPair => out g.high ++ out g.critical
    let completes := Completes .thermalLimits l [a0, a1, b0, b1, c0, c1, d0, d1, e0, e1, f0, f1] fill s
    let wrong := bad a0 a1 ∨ bad b0 b1 ∨ bad c0 c1 ∨ bad d0 d1 ∨ bad e0 e1 ∨ bad f0 f1
    (wrong → completes (.refused .range []) s.part) ∧
    (¬ wrong →
      let given : ThermalLimits :=
        ⟨⟨word a0 a1 old.head.high, word b0 b1 old.head.critical⟩,
          ⟨word c0 c1 old.ambient.high, word d0 d1 old.ambient.critical⟩,
          ⟨word e0 e1 old.bay.high, word f0 f1 old.bay.critical⟩⟩
      let new : ThermalLimits := ⟨settled given.head, settled given.ambient, settled given.bay⟩
      let answer := bytes new.head ++ bytes new.ambient ++ bytes new.bay
      completes (if new = given then .done answer else .doneClamped answer)
        { s.part with thermal := { s.part.thermal with limits := new } })

/-! ## Resets -/

/-- R195, R206 and the reset rules of every chapter (R20, R42, R72, R90, R111, R135, R152, R175, R184): tower reset
empties every table, queue, ring and bin record, stops every timer, wants no poll and puts every setting at its
default; the part is held. Image memory is not kept: the model takes every byte as 00h afterwards (log entry 4). That
the queue of commands and the pins, which are the outside world's, are as before is the model's choice (log entry 18).
(That the sensor timers stand still until the release is too, log entry 3, and not stated here.) -/
def Obligations.TowerResetEmptiesTheTower : Prop :=
  ∀ s : State, ∃ t, exec .towerReset s = .next t ∧ t.pending = s.pending ∧ t.pins = s.pins ∧
    t.part.held = true ∧
    (∀ l : Link, t.ports[l].response = .first ∧ t.part.links[l] = ⟨0, BitVec.allOnes 14, 0⟩ ∧
      attention t.part l = false) ∧
    t.mem = [] ∧ t.part.ring = [] ∧ (∀ n : SlotNum, t.part.slots[n] = none) ∧ (∀ j : JobNum, t.part.jobs[j] = none) ∧
    t.part.runList = [] ∧ t.part.flow.discs = [] ∧ t.part.flow.nextId = 1 ∧ t.part.flow.queue = [] ∧
    t.part.flow.issued = none ∧ t.part.flow.held = false ∧ (∀ n : SpindleNum, t.part.flow.spindles[n] = none) ∧
    t.part.flow.acceptFull = false ∧ t.part.flow.rejectFull = false ∧ t.part.flow.waitList = [] ∧
    (∀ b : BayNum, t.part.bays[b] =
      ⟨false, true, false, ⟨0, 0, 0⟩, .offline, none, none, 0, none, none, none⟩) ∧
    t.part.bus.list = [] ∧ t.part.bus.turn = .none ∧ t.part.bus.addressing = .none ∧ t.part.bus.ring = [] ∧
    t.part.bus.position = none ∧ t.part.bus.holdOff = none ∧ t.part.bus.pause = none ∧
    t.part.bus.pollWanted = false ∧ t.part.bus.fruitless = [] ∧
    (∀ n : SessionNum, t.part.engine.sessions[n] = none) ∧ t.part.engine.waiting = [] ∧
    t.part.engine.settings = ⟨30, 16, 8⟩ ∧ t.part.verifier.queue = [] ∧
    (∀ k : PlaceNum, t.part.verifier.places[k] = none) ∧ t.part.verifier.limits = ⟨64, 256, 1024⟩ ∧
    t.part.printer.state = .pausedRibbon ∧ t.part.printer.disc = none ∧ t.part.printer.label = none ∧
    t.part.printer.status = none ∧ t.part.printer.pace = .full ∧ t.part.printer.last = none ∧
    t.part.printer.ribbon = 0 ∧ t.part.printer.strobe = 600 ∧ t.part.printer.hot = none ∧
    t.part.printer.firing = none ∧ t.part.printer.gap = none ∧
    t.part.printer.settings = ⟨216, 708, 10, 256, 224, 192, 50, 2500⟩ ∧
    t.part.thermal.head.reading = none ∧ t.part.thermal.head.condition = .normal ∧
    t.part.thermal.ambient.reading = none ∧ t.part.thermal.ambient.condition = .normal ∧
    (∀ b : BayNum, t.part.thermal.bays[b].reading = none ∧ t.part.thermal.bays[b].condition = .normal) ∧
    t.part.thermal.limits = ⟨⟨240, 280⟩, ⟨160, 200⟩, ⟨220, 260⟩⟩

/-- R13, R70, R77, R157, R184, R196 and R198: as a part fresh from tower reset leaves it, the strap is latched, RESET
is set in every link, HEAD and AMBIENT are sampled with their timers at 1 s, a disc in the tray is an orphan under id
1 with its order to the reject bin (creation sequence 0 is the model's, log entry 5), discovery asks for CLEAR ALL and
ten status reads, and a select that is low is waited out. (That the service work list holds no SERVICE POLL, even
where ATTN stands asserted at the release, is the model's choice: log entry 25.) -/
def Obligations.PartLeavesReset : Prop :=
  ∀ (strap tray broken : Bool) (head ambient : Int) (low : BitVec 3) (s : State), s.part = Part.reset →
    let orphan : Disc := ⟨1, none, .failed, .tray, some .rejectBin, none, none, none, none, none, false, some .orphan⟩
    let order : Order := ⟨.printerToReject, 1, .tray, .rejectBin, 0⟩
    ∃ t, exec (.resetRelease strap tray broken head ambient low) s = .next t ∧ t.pending = s.pending ∧
      t.mem = s.mem ∧ t.pins = { s.pins with strapTied := strap, trayShown := tray, breakShown := broken } ∧
      (∀ l : Link, t.ports[l] = { s.ports[l] with straddling := low.getLsbD l.val }) ∧
      t.part.held = false ∧ t.part.strap = strap ∧
      (∀ l : Link, t.part.links[l].flags.getLsbD 0 = true ∧ attention t.part l = true) ∧
      t.part.thermal.head.reading = some (clampInt (-160) 511 head) ∧ t.part.thermal.head.timer = some 1000 ∧
      t.part.thermal.ambient.reading = some (clampInt (-160) 511 ambient) ∧
      t.part.thermal.ambient.timer = some 1000 ∧
      t.part.bus.list = .clearAll :: (List.finRange 10).map (fun b => .statusRead b false) ∧
      t.part.flow.discs = (if tray then [orphan] else []) ∧ t.part.flow.queue = (if tray then [order] else []) ∧
      t.part.printer.disc = (if tray then some 1 else none) ∧
      t.part.printer.status = (if tray then some .notPrinted else none)

/-! ## What every step keeps -/

/-- R1 and R2, in the model's terms: image memory keeps its canonical form, and the slots' extents stay in image
memory and apart from one another, in every step. -/
def Obligations.StepKeepsImageMemory : Prop :=
  ∀ s t : State, Memory.wf s.mem → ExtentsApart s.part → step s = .next t → Memory.wf t.mem ∧ ExtentsApart t.part

/-- With the extents in image memory no step stops: the model's only fault (an access outside image memory) is out of
reach. -/
def Obligations.StepsNeverStop : Prop :=
  ∀ s : State, ExtentsApart s.part → ∃ t, step s = .next t

/-- Every step keeps the jobs that hold an admission place to two (R29), the results ring to 64 entries and each
link's unread count to what it holds (R203, R204), and the move queue in class order and by creation sequence within a
class (R59). Every step keeps each slot's reference count the number of times that the listed jobs name the slot, an
EMPTY or FILLING slot unnamed (R12, R40). And every step keeps, taken together, a bay OFFLINE exactly while it is not
present (R74), the grant ring without a session twice and within 6 entries (R106), a bay once at most among the
members of the sessions and the waiting bays (R113, R117), and the verify queue without a bay twice (R136). (What
guards the last four in states that no run reaches is log entry 19.) -/
def Obligations.StepKeepsTheTables : Prop :=
  (∀ s t : State, TwoPlaces s.part → step s = .next t → TwoPlaces t.part) ∧
  (∀ s t : State, RingBounded s.part → step s = .next t → RingBounded t.part) ∧
  (∀ s t : State, QueueOrdered s.part → step s = .next t → QueueOrdered t.part) ∧
  (∀ s t : State, RefsCounted s.part → step s = .next t → RefsCounted t.part) ∧
  ∀ s t : State,
    let once := fun p : Part =>
      OfflineExactly p.bays ∧ RingOnce p.bus.ring ∧ BaysOnce p.engine ∧ p.verifier.queue.Nodup
    once s.part → step s = .next t → once t.part

/-- R115, R149, R165, R169, R170 and R182: every step keeps every setting within its range. -/
def Obligations.StepKeepsSettings : Prop :=
  ∀ s t : State, SettingsLegal s.part → step s = .next t → SettingsLegal t.part

/-- The state right after reset meets everything that the steps keep. -/
def Obligations.ResetMeetsTheInvariants : Prop :=
  Memory.wf State.reset.mem ∧ ExtentsApart State.reset.part ∧ TwoPlaces State.reset.part ∧
    RingBounded State.reset.part ∧ QueueOrdered State.reset.part ∧ SettingsLegal State.reset.part ∧
    RefsCounted State.reset.part ∧ OfflineExactly State.reset.part.bays ∧ RingOnce State.reset.part.bus.ring ∧
    BaysOnce State.reset.part.engine ∧ State.reset.part.verifier.queue.Nodup
end

