-- ==== Sys2Proof/Laws/State.lean ====
section
/-!
SUPPORT. One lemma for each record update of the model: what the update leaves as it was, and what it writes. Each is a
conjunction of equations, which `simp` uses one by one.
-/

namespace Sys2Proof.Machine

/-- Setting a flag leaves the unread count and the mask. -/
@[simp] theorem LinkEvents.set_keeps (f : Flag) (e : LinkEvents) :
    (e.set f).unread = e.unread ∧ (e.set f).mask = e.mask := ⟨rfl, rfl⟩

/-- The unread counts after flags have been set in every link. -/
@[simp] theorem map_set_unread (f : Flag) (v : Vector LinkEvents 3) :
    (v.map (LinkEvents.set f)).map LinkEvents.unread = v.map LinkEvents.unread := by
  simp [Vector.map_map, Function.comp_def]

/-- The masks after flags have been set in every link. -/
@[simp] theorem map_set_mask (f : Flag) (v : Vector LinkEvents 3) :
    (v.map (LinkEvents.set f)).map LinkEvents.mask = v.map LinkEvents.mask := by
  simp [Vector.map_map, Function.comp_def]

/-- An entry of a table after one entry was replaced, the entry being numbered by a plain number. -/
@[simp] theorem put_getElem {α : Type} {n : Nat} (v : Vector α n) (i : Fin n) (j : Nat) (h : j < n) (x : α) :
    (put v i x)[j] = if i.val = j then x else v[j] := by
  simp [put, Vector.getElem_set]

/-- An entry of a table after one entry was replaced. -/
theorem put_get {α : Type} {n : Nat} (v : Vector α n) (i j : Fin n) (x : α) :
    (put v i x)[j] = if i = j then x else v[j] := by
  simp [Fin.ext_iff]

/-- The entry that was replaced. -/
theorem put_get_self {α : Type} {n : Nat} (v : Vector α n) (i : Fin n) (x : α) : (put v i x)[i] = x := by simp

/-- An entry that was not replaced. -/
theorem put_get_other {α : Type} {n : Nat} (v : Vector α n) (i j : Fin n) (x : α) (h : j ≠ i) :
    (put v i x)[j] = v[j] := by
  simp only [put_get, if_neg (Ne.symm h)]

/-- The search of a table finds the first entry that meets the test. -/
theorem lowest_some {α : Type} {n : Nat} {v : Vector α n} {test : α → Bool} {i : Fin n} (h : test v[i] = true)
    (hl : ∀ j : Fin n, j < i → test v[j] = false) : lowest v test = some i := by
  unfold lowest
  rw [List.find?_eq_some_iff_append]
  refine ⟨h, (List.finRange n).take i, (List.finRange n).drop (i + 1), ?_, ?_⟩
  · have := List.drop_eq_getElem_cons (l := List.finRange n) (i := i.val) (by simp)
    rw [List.getElem_finRange] at this
    exact ((List.take_append_drop i (List.finRange n)).symm.trans (by rw [this]; rfl))
  · intro a ha
    rw [List.mem_take_iff_getElem] at ha
    obtain ⟨k, hk, rfl⟩ := ha
    have hki : (List.finRange n)[k]'(by simpa using (lt_min_iff.1 hk).2) < i := by
      rw [List.getElem_finRange]
      exact Fin.lt_def.2 (lt_min_iff.1 hk).1
    rw [hl _ hki]
    rfl

/-- The search of a table finds nothing where no entry meets the test. -/
theorem lowest_none {α : Type} {n : Nat} {v : Vector α n} {test : α → Bool} (h : ∀ i : Fin n, test v[i] = false) :
    lowest v test = none := by
  unfold lowest
  rw [List.find?_eq_none]
  intro i _
  rw [h i]
  exact Bool.false_ne_true

@[simp] theorem raise_keeps (f : Flag) (p : Part) :
    (raise f p).held = p.held ∧ (raise f p).strap = p.strap ∧ (raise f p).ring = p.ring ∧
    (raise f p).slots = p.slots ∧ (raise f p).jobs = p.jobs ∧ (raise f p).runList = p.runList ∧
    (raise f p).verifier = p.verifier ∧ (raise f p).printer = p.printer ∧ (raise f p).thermal = p.thermal ∧
    (raise f p).engine = p.engine ∧ (raise f p).bus = p.bus ∧ (raise f p).bays = p.bays ∧
    (raise f p).flow = p.flow ∧ (raise f p).links.map LinkEvents.unread = p.links.map LinkEvents.unread ∧
    (raise f p).links.map LinkEvents.mask = p.links.map LinkEvents.mask ∧
    (raise f p).links = (p.links.map (LinkEvents.set f)) :=
  ⟨rfl, rfl, rfl, rfl, rfl, rfl, rfl, rfl, rfl, rfl, rfl, rfl, rfl, map_set_unread f p.links, map_set_mask f p.links, rfl⟩

@[simp] theorem setSlot_keeps (n : SlotNum) (x : Option Slot) (p : Part) :
    (setSlot n x p).held = p.held ∧ (setSlot n x p).strap = p.strap ∧ (setSlot n x p).ring = p.ring ∧
    (setSlot n x p).jobs = p.jobs ∧ (setSlot n x p).runList = p.runList ∧ (setSlot n x p).verifier = p.verifier ∧
    (setSlot n x p).printer = p.printer ∧ (setSlot n x p).thermal = p.thermal ∧ (setSlot n x p).engine = p.engine ∧
    (setSlot n x p).bus = p.bus ∧ (setSlot n x p).bays = p.bays ∧ (setSlot n x p).flow = p.flow ∧
    (setSlot n x p).links = p.links ∧
    (setSlot n x p).slots = (put p.slots n x) :=
  ⟨rfl, rfl, rfl, rfl, rfl, rfl, rfl, rfl, rfl, rfl, rfl, rfl, rfl, rfl⟩

@[simp] theorem setJob_keeps (j : JobNum) (x : Option Job) (p : Part) :
    (setJob j x p).held = p.held ∧ (setJob j x p).strap = p.strap ∧ (setJob j x p).ring = p.ring ∧
    (setJob j x p).slots = p.slots ∧ (setJob j x p).runList = p.runList ∧ (setJob j x p).verifier = p.verifier ∧
    (setJob j x p).printer = p.printer ∧ (setJob j x p).thermal = p.thermal ∧ (setJob j x p).engine = p.engine ∧
    (setJob j x p).bus = p.bus ∧ (setJob j x p).bays = p.bays ∧ (setJob j x p).flow = p.flow ∧
    (setJob j x p).links = p.links ∧
    (setJob j x p).jobs = (put p.jobs j x) :=
  ⟨rfl, rfl, rfl, rfl, rfl, rfl, rfl, rfl, rfl, rfl, rfl, rfl, rfl, rfl⟩

@[simp] theorem setSession_keeps (n : SessionNum) (x : Option Session) (p : Part) :
    (setSession n x p).held = p.held ∧ (setSession n x p).strap = p.strap ∧ (setSession n x p).ring = p.ring ∧
    (setSession n x p).slots = p.slots ∧ (setSession n x p).jobs = p.jobs ∧ (setSession n x p).runList = p.runList ∧
    (setSession n x p).verifier = p.verifier ∧ (setSession n x p).printer = p.printer ∧
    (setSession n x p).thermal = p.thermal ∧ (setSession n x p).engine.settings = p.engine.settings ∧
    (setSession n x p).bus = p.bus ∧ (setSession n x p).bays = p.bays ∧ (setSession n x p).flow = p.flow ∧
    (setSession n x p).links = p.links ∧
    (setSession n x p).engine.sessions = (put p.engine.sessions n x) ∧
    (setSession n x p).engine.waiting = (p.engine.waiting) :=
  ⟨rfl, rfl, rfl, rfl, rfl, rfl, rfl, rfl, rfl, rfl, rfl, rfl, rfl, rfl, rfl, rfl⟩

@[simp] theorem setPlace_keeps (k : PlaceNum) (x : Option Readback) (p : Part) :
    (setPlace k x p).held = p.held ∧ (setPlace k x p).strap = p.strap ∧ (setPlace k x p).ring = p.ring ∧
    (setPlace k x p).slots = p.slots ∧ (setPlace k x p).jobs = p.jobs ∧ (setPlace k x p).runList = p.runList ∧
    (setPlace k x p).verifier.limits = p.verifier.limits ∧ (setPlace k x p).printer = p.printer ∧
    (setPlace k x p).thermal = p.thermal ∧ (setPlace k x p).engine = p.engine ∧ (setPlace k x p).bus = p.bus ∧
    (setPlace k x p).bays = p.bays ∧ (setPlace k x p).flow = p.flow ∧ (setPlace k x p).links = p.links ∧
    (setPlace k x p).verifier.places = (put p.verifier.places k x) ∧
    (setPlace k x p).verifier.queue = (p.verifier.queue) :=
  ⟨rfl, rfl, rfl, rfl, rfl, rfl, rfl, rfl, rfl, rfl, rfl, rfl, rfl, rfl, rfl, rfl⟩

@[simp] theorem modBay_keeps (b : BayNum) (f : Bay → Bay) (p : Part) :
    (modBay b f p).held = p.held ∧ (modBay b f p).strap = p.strap ∧ (modBay b f p).ring = p.ring ∧
    (modBay b f p).slots = p.slots ∧ (modBay b f p).jobs = p.jobs ∧ (modBay b f p).runList = p.runList ∧
    (modBay b f p).verifier = p.verifier ∧ (modBay b f p).printer = p.printer ∧ (modBay b f p).thermal = p.thermal ∧
    (modBay b f p).engine = p.engine ∧ (modBay b f p).bus = p.bus ∧ (modBay b f p).flow = p.flow ∧
    (modBay b f p).links = p.links ∧
    (modBay b f p).bays = (put p.bays b (f p.bays[b])) :=
  ⟨rfl, rfl, rfl, rfl, rfl, rfl, rfl, rfl, rfl, rfl, rfl, rfl, rfl, rfl⟩

@[simp] theorem modDisc_keeps (id : Nat) (f : Disc → Disc) (p : Part) :
    (modDisc id f p).held = p.held ∧ (modDisc id f p).strap = p.strap ∧ (modDisc id f p).ring = p.ring ∧
    (modDisc id f p).slots = p.slots ∧ (modDisc id f p).jobs = p.jobs ∧ (modDisc id f p).runList = p.runList ∧
    (modDisc id f p).verifier = p.verifier ∧ (modDisc id f p).printer = p.printer ∧
    (modDisc id f p).thermal = p.thermal ∧ (modDisc id f p).engine = p.engine ∧ (modDisc id f p).bus = p.bus ∧
    (modDisc id f p).bays = p.bays ∧ (modDisc id f p).flow.held = p.flow.held ∧
    (modDisc id f p).flow.spindles = p.flow.spindles ∧ (modDisc id f p).flow.acceptFull = p.flow.acceptFull ∧
    (modDisc id f p).flow.rejectFull = p.flow.rejectFull ∧ (modDisc id f p).flow.issued = p.flow.issued ∧
    (modDisc id f p).links = p.links ∧
    (modDisc id f p).flow.discs = (p.flow.discs.map fun d => if d.id = id then f d else d) ∧
    (modDisc id f p).flow.queue = (p.flow.queue) ∧
    (modDisc id f p).flow.nextId = (p.flow.nextId) ∧
    (modDisc id f p).flow.nextSeq = (p.flow.nextSeq) ∧
    (modDisc id f p).flow.waitList = (p.flow.waitList) :=
  ⟨rfl, rfl, rfl, rfl, rfl, rfl, rfl, rfl, rfl, rfl, rfl, rfl, rfl, rfl, rfl, rfl, rfl, rfl, rfl, rfl, rfl, rfl, rfl⟩

@[simp] theorem modPrinter_keeps (f : Printer → Printer) (p : Part) :
    (modPrinter f p).held = p.held ∧ (modPrinter f p).strap = p.strap ∧ (modPrinter f p).ring = p.ring ∧
    (modPrinter f p).slots = p.slots ∧ (modPrinter f p).jobs = p.jobs ∧ (modPrinter f p).runList = p.runList ∧
    (modPrinter f p).verifier = p.verifier ∧ (modPrinter f p).thermal = p.thermal ∧
    (modPrinter f p).engine = p.engine ∧ (modPrinter f p).bus = p.bus ∧ (modPrinter f p).bays = p.bays ∧
    (modPrinter f p).flow = p.flow ∧ (modPrinter f p).links = p.links ∧
    (modPrinter f p).printer = (f p.printer) :=
  ⟨rfl, rfl, rfl, rfl, rfl, rfl, rfl, rfl, rfl, rfl, rfl, rfl, rfl, rfl⟩

@[simp] theorem setLink_keeps (l : Link) (e : LinkEvents) (p : Part) :
    (setLink l e p).held = p.held ∧ (setLink l e p).strap = p.strap ∧ (setLink l e p).ring = p.ring ∧
    (setLink l e p).slots = p.slots ∧ (setLink l e p).jobs = p.jobs ∧ (setLink l e p).runList = p.runList ∧
    (setLink l e p).verifier = p.verifier ∧ (setLink l e p).printer = p.printer ∧
    (setLink l e p).thermal = p.thermal ∧ (setLink l e p).engine = p.engine ∧ (setLink l e p).bus = p.bus ∧
    (setLink l e p).bays = p.bays ∧ (setLink l e p).flow = p.flow ∧
    (setLink l e p).links = (put p.links l e) :=
  ⟨rfl, rfl, rfl, rfl, rfl, rfl, rfl, rfl, rfl, rfl, rfl, rfl, rfl, rfl⟩

@[simp] theorem setBurn_keeps (x : BurnSettings) (p : Part) :
    (setBurn x p).held = p.held ∧ (setBurn x p).strap = p.strap ∧ (setBurn x p).ring = p.ring ∧
    (setBurn x p).slots = p.slots ∧ (setBurn x p).jobs = p.jobs ∧ (setBurn x p).runList = p.runList ∧
    (setBurn x p).verifier = p.verifier ∧ (setBurn x p).printer = p.printer ∧ (setBurn x p).thermal = p.thermal ∧
    (setBurn x p).bus = p.bus ∧ (setBurn x p).bays = p.bays ∧ (setBurn x p).flow = p.flow ∧
    (setBurn x p).links = p.links ∧
    (setBurn x p).engine.settings = (x) ∧
    (setBurn x p).engine.sessions = (p.engine.sessions) ∧
    (setBurn x p).engine.waiting = (p.engine.waiting) :=
  ⟨rfl, rfl, rfl, rfl, rfl, rfl, rfl, rfl, rfl, rfl, rfl, rfl, rfl, rfl, rfl, rfl⟩

@[simp] theorem setLimits_keeps (x : GradeLimits) (p : Part) :
    (setLimits x p).held = p.held ∧ (setLimits x p).strap = p.strap ∧ (setLimits x p).ring = p.ring ∧
    (setLimits x p).slots = p.slots ∧ (setLimits x p).jobs = p.jobs ∧ (setLimits x p).runList = p.runList ∧
    (setLimits x p).printer = p.printer ∧ (setLimits x p).thermal = p.thermal ∧ (setLimits x p).engine = p.engine ∧
    (setLimits x p).bus = p.bus ∧ (setLimits x p).bays = p.bays ∧ (setLimits x p).flow = p.flow ∧
    (setLimits x p).links = p.links ∧
    (setLimits x p).verifier.limits = (x) ∧
    (setLimits x p).verifier.queue = (p.verifier.queue) ∧
    (setLimits x p).verifier.places = (p.verifier.places) :=
  ⟨rfl, rfl, rfl, rfl, rfl, rfl, rfl, rfl, rfl, rfl, rfl, rfl, rfl, rfl, rfl, rfl⟩

@[simp] theorem setPrint_keeps (x : PrintSettings) (p : Part) :
    (setPrint x p).held = p.held ∧ (setPrint x p).strap = p.strap ∧ (setPrint x p).ring = p.ring ∧
    (setPrint x p).slots = p.slots ∧ (setPrint x p).jobs = p.jobs ∧ (setPrint x p).runList = p.runList ∧
    (setPrint x p).verifier = p.verifier ∧ (setPrint x p).printer.strobe = p.printer.strobe ∧
    (setPrint x p).thermal = p.thermal ∧ (setPrint x p).engine = p.engine ∧ (setPrint x p).bus = p.bus ∧
    (setPrint x p).bays = p.bays ∧ (setPrint x p).flow = p.flow ∧ (setPrint x p).links = p.links ∧
    (setPrint x p).printer.settings = (x) :=
  ⟨rfl, rfl, rfl, rfl, rfl, rfl, rfl, rfl, rfl, rfl, rfl, rfl, rfl, rfl, rfl⟩

@[simp] theorem setThermal_keeps (x : ThermalLimits) (p : Part) :
    (setThermal x p).held = p.held ∧ (setThermal x p).strap = p.strap ∧ (setThermal x p).ring = p.ring ∧
    (setThermal x p).slots = p.slots ∧ (setThermal x p).jobs = p.jobs ∧ (setThermal x p).runList = p.runList ∧
    (setThermal x p).verifier = p.verifier ∧ (setThermal x p).printer = p.printer ∧
    (setThermal x p).engine = p.engine ∧ (setThermal x p).bus = p.bus ∧ (setThermal x p).bays = p.bays ∧
    (setThermal x p).flow = p.flow ∧ (setThermal x p).links = p.links ∧
    (setThermal x p).thermal.limits = (x) ∧
    (setThermal x p).thermal.head = (p.thermal.head) ∧
    (setThermal x p).thermal.ambient = (p.thermal.ambient) ∧
    (setThermal x p).thermal.bays = (p.thermal.bays) :=
  ⟨rfl, rfl, rfl, rfl, rfl, rfl, rfl, rfl, rfl, rfl, rfl, rfl, rfl, rfl, rfl, rfl, rfl⟩

@[simp] theorem setTurn_keeps (t : Turn) (p : Part) :
    (setTurn t p).held = p.held ∧ (setTurn t p).strap = p.strap ∧ (setTurn t p).ring = p.ring ∧
    (setTurn t p).slots = p.slots ∧ (setTurn t p).jobs = p.jobs ∧ (setTurn t p).runList = p.runList ∧
    (setTurn t p).verifier = p.verifier ∧ (setTurn t p).printer = p.printer ∧ (setTurn t p).thermal = p.thermal ∧
    (setTurn t p).engine = p.engine ∧ (setTurn t p).bays = p.bays ∧ (setTurn t p).flow = p.flow ∧
    (setTurn t p).links = p.links ∧
    (setTurn t p).bus.turn = (t) ∧
    (setTurn t p).bus.list = (p.bus.list) ∧
    (setTurn t p).bus.ring = (p.bus.ring) ∧
    (setTurn t p).bus.position = (p.bus.position) :=
  ⟨rfl, rfl, rfl, rfl, rfl, rfl, rfl, rfl, rfl, rfl, rfl, rfl, rfl, rfl, rfl, rfl, rfl⟩

/-- What the answer to a frame writes: the port of its link, and the part. -/
@[simp] theorem answered_keeps (l : Link) (n : Nat) (s : State) (r : Response) (p : Part) :
    (answered l n s r p).mem = s.mem ∧ (answered l n s r p).pins = s.pins ∧
    (answered l n s r p).pending = s.pending ∧ (answered l n s r p).part = p ∧
    (answered l n s r p).ports = put s.ports l (s.ports[l].after s.part l n r) := ⟨rfl, rfl, rfl, rfl, rfl⟩

/-- What replacing a port writes. -/
@[simp] theorem setPort_keeps (l : Link) (q : Port) (s : State) :
    (setPort l q s).mem = s.mem ∧ (setPort l q s).pins = s.pins ∧ (setPort l q s).pending = s.pending ∧
    (setPort l q s).part = s.part ∧ (setPort l q s).ports = put s.ports l q := ⟨rfl, rfl, rfl, rfl, rfl⟩

/-- A port after a frame. -/
@[simp] theorem Port.after_keeps (p : Part) (l : Link) (q : Port) (n : Nat) (r : Response) :
    (q.after p l n r).response = r ∧ (q.after p l n r).rx = [] ∧ (q.after p l n r).straddling = q.straddling ∧
    (q.after p l n r).clockedOut = clockOut p l q.response n := ⟨rfl, rfl, rfl, rfl⟩

end Sys2Proof.Machine
end

