-- ==== Sys2Proof/Laws/Frames.lean ====
section
/-!
SUPPORT. For each shared operation, one lemma that says all it leaves as it was; `simp` uses each as equations. What an
operation may change is what its lemma does not name.
-/

namespace Sys2Proof.Machine

@[simp] theorem raiseIf_keeps (b : Bool) (f : Flag) (p : Part) :
    (raiseIf b f p).held = p.held ∧ (raiseIf b f p).strap = p.strap ∧ (raiseIf b f p).ring = p.ring ∧
    (raiseIf b f p).slots = p.slots ∧ (raiseIf b f p).jobs = p.jobs ∧ (raiseIf b f p).runList = p.runList ∧
    (raiseIf b f p).verifier = p.verifier ∧ (raiseIf b f p).printer = p.printer ∧
    (raiseIf b f p).thermal = p.thermal ∧ (raiseIf b f p).engine = p.engine ∧ (raiseIf b f p).bus = p.bus ∧
    (raiseIf b f p).bays = p.bays ∧ (raiseIf b f p).flow = p.flow ∧
    (raiseIf b f p).links.map LinkEvents.unread = p.links.map LinkEvents.unread ∧
    (raiseIf b f p).links.map LinkEvents.mask = p.links.map LinkEvents.mask := by
  unfold raiseIf
  try dsimp only
  (repeat' split) <;> simp

@[simp] theorem takeRef_keeps (n : SlotNum) (p : Part) :
    (takeRef n p).held = p.held ∧ (takeRef n p).strap = p.strap ∧ (takeRef n p).ring = p.ring ∧
    (takeRef n p).jobs = p.jobs ∧ (takeRef n p).runList = p.runList ∧ (takeRef n p).verifier = p.verifier ∧
    (takeRef n p).printer = p.printer ∧ (takeRef n p).thermal = p.thermal ∧ (takeRef n p).engine = p.engine ∧
    (takeRef n p).bus = p.bus ∧ (takeRef n p).bays = p.bays ∧ (takeRef n p).flow = p.flow ∧
    (takeRef n p).links = p.links := by
  unfold takeRef
  try dsimp only
  (repeat' split) <;> simp

@[simp] theorem dropRef_keeps (n : SlotNum) (p : Part) :
    (dropRef n p).held = p.held ∧ (dropRef n p).strap = p.strap ∧ (dropRef n p).ring = p.ring ∧
    (dropRef n p).jobs = p.jobs ∧ (dropRef n p).runList = p.runList ∧ (dropRef n p).verifier = p.verifier ∧
    (dropRef n p).printer = p.printer ∧ (dropRef n p).thermal = p.thermal ∧ (dropRef n p).engine = p.engine ∧
    (dropRef n p).bus = p.bus ∧ (dropRef n p).bays = p.bays ∧ (dropRef n p).flow = p.flow ∧
    (dropRef n p).links.map LinkEvents.unread = p.links.map LinkEvents.unread ∧
    (dropRef n p).links.map LinkEvents.mask = p.links.map LinkEvents.mask := by
  unfold dropRef
  try dsimp only
  (repeat' split) <;> simp

@[simp] theorem sampleHead_keeps (v : Int) (p : Part) :
    (sampleHead v p).held = p.held ∧ (sampleHead v p).strap = p.strap ∧ (sampleHead v p).ring = p.ring ∧
    (sampleHead v p).slots = p.slots ∧ (sampleHead v p).jobs = p.jobs ∧ (sampleHead v p).runList = p.runList ∧
    (sampleHead v p).verifier = p.verifier ∧ (sampleHead v p).printer = p.printer ∧
    (sampleHead v p).thermal.limits = p.thermal.limits ∧ (sampleHead v p).engine = p.engine ∧
    (sampleHead v p).bus = p.bus ∧ (sampleHead v p).bays = p.bays ∧ (sampleHead v p).flow = p.flow ∧
    (sampleHead v p).links.map LinkEvents.unread = p.links.map LinkEvents.unread ∧
    (sampleHead v p).links.map LinkEvents.mask = p.links.map LinkEvents.mask := by
  simp [sampleHead]

@[simp] theorem sampleAmbient_keeps (v : Int) (p : Part) :
    (sampleAmbient v p).held = p.held ∧ (sampleAmbient v p).strap = p.strap ∧ (sampleAmbient v p).ring = p.ring ∧
    (sampleAmbient v p).slots = p.slots ∧ (sampleAmbient v p).jobs = p.jobs ∧
    (sampleAmbient v p).runList = p.runList ∧ (sampleAmbient v p).verifier = p.verifier ∧
    (sampleAmbient v p).printer = p.printer ∧ (sampleAmbient v p).thermal.limits = p.thermal.limits ∧
    (sampleAmbient v p).engine = p.engine ∧ (sampleAmbient v p).bus = p.bus ∧ (sampleAmbient v p).bays = p.bays ∧
    (sampleAmbient v p).flow = p.flow ∧
    (sampleAmbient v p).links.map LinkEvents.unread = p.links.map LinkEvents.unread ∧
    (sampleAmbient v p).links.map LinkEvents.mask = p.links.map LinkEvents.mask := by
  simp [sampleAmbient]

@[simp] theorem sampleBay_keeps (b : BayNum) (v : Int) (p : Part) :
    (sampleBay b v p).held = p.held ∧ (sampleBay b v p).strap = p.strap ∧ (sampleBay b v p).ring = p.ring ∧
    (sampleBay b v p).slots = p.slots ∧ (sampleBay b v p).jobs = p.jobs ∧ (sampleBay b v p).runList = p.runList ∧
    (sampleBay b v p).verifier = p.verifier ∧ (sampleBay b v p).printer = p.printer ∧
    (sampleBay b v p).thermal.limits = p.thermal.limits ∧ (sampleBay b v p).engine = p.engine ∧
    (sampleBay b v p).bus = p.bus ∧ (sampleBay b v p).bays = p.bays ∧ (sampleBay b v p).flow = p.flow ∧
    (sampleBay b v p).links.map LinkEvents.unread = p.links.map LinkEvents.unread ∧
    (sampleBay b v p).links.map LinkEvents.mask = p.links.map LinkEvents.mask := by
  simp [sampleBay]

@[simp] theorem ask_keeps (i : Item) (p : Part) :
    (ask i p).held = p.held ∧ (ask i p).strap = p.strap ∧ (ask i p).ring = p.ring ∧ (ask i p).slots = p.slots ∧
    (ask i p).jobs = p.jobs ∧ (ask i p).runList = p.runList ∧ (ask i p).verifier = p.verifier ∧
    (ask i p).printer = p.printer ∧ (ask i p).thermal = p.thermal ∧ (ask i p).engine = p.engine ∧
    (ask i p).bays = p.bays ∧ (ask i p).flow = p.flow ∧ (ask i p).links = p.links := by
  unfold ask
  try dsimp only
  (repeat' split) <;> simp

@[simp] theorem enterRing_keeps (e : RingEntry) (p : Part) :
    (enterRing e p).held = p.held ∧ (enterRing e p).strap = p.strap ∧ (enterRing e p).ring = p.ring ∧
    (enterRing e p).slots = p.slots ∧ (enterRing e p).jobs = p.jobs ∧ (enterRing e p).runList = p.runList ∧
    (enterRing e p).verifier = p.verifier ∧ (enterRing e p).printer = p.printer ∧
    (enterRing e p).thermal = p.thermal ∧ (enterRing e p).engine = p.engine ∧ (enterRing e p).bays = p.bays ∧
    (enterRing e p).flow = p.flow ∧ (enterRing e p).links = p.links := by
  simp [enterRing]

@[simp] theorem leaveRing_keeps (e : RingEntry) (p : Part) :
    (leaveRing e p).held = p.held ∧ (leaveRing e p).strap = p.strap ∧ (leaveRing e p).ring = p.ring ∧
    (leaveRing e p).slots = p.slots ∧ (leaveRing e p).jobs = p.jobs ∧ (leaveRing e p).runList = p.runList ∧
    (leaveRing e p).verifier = p.verifier ∧ (leaveRing e p).printer = p.printer ∧
    (leaveRing e p).thermal = p.thermal ∧ (leaveRing e p).engine = p.engine ∧ (leaveRing e p).bays = p.bays ∧
    (leaveRing e p).flow = p.flow ∧ (leaveRing e p).links = p.links := by
  simp [leaveRing]

@[simp] theorem busForgetSession_keeps (n : SessionNum) (p : Part) :
    (busForgetSession n p).held = p.held ∧ (busForgetSession n p).strap = p.strap ∧
    (busForgetSession n p).ring = p.ring ∧ (busForgetSession n p).slots = p.slots ∧
    (busForgetSession n p).jobs = p.jobs ∧ (busForgetSession n p).runList = p.runList ∧
    (busForgetSession n p).verifier = p.verifier ∧ (busForgetSession n p).printer = p.printer ∧
    (busForgetSession n p).thermal = p.thermal ∧ (busForgetSession n p).engine = p.engine ∧
    (busForgetSession n p).bays = p.bays ∧ (busForgetSession n p).flow = p.flow ∧
    (busForgetSession n p).links = p.links := by
  simp [busForgetSession]

@[simp] theorem busForgetPlace_keeps (k : PlaceNum) (p : Part) :
    (busForgetPlace k p).held = p.held ∧ (busForgetPlace k p).strap = p.strap ∧ (busForgetPlace k p).ring = p.ring ∧
    (busForgetPlace k p).slots = p.slots ∧ (busForgetPlace k p).jobs = p.jobs ∧
    (busForgetPlace k p).runList = p.runList ∧ (busForgetPlace k p).verifier = p.verifier ∧
    (busForgetPlace k p).printer = p.printer ∧ (busForgetPlace k p).thermal = p.thermal ∧
    (busForgetPlace k p).engine = p.engine ∧ (busForgetPlace k p).bays = p.bays ∧
    (busForgetPlace k p).flow = p.flow ∧ (busForgetPlace k p).links = p.links := by
  simp [busForgetPlace]

@[simp] theorem address_keeps (a : Addressing) (p : Part) :
    (address a p).held = p.held ∧ (address a p).strap = p.strap ∧ (address a p).ring = p.ring ∧
    (address a p).slots = p.slots ∧ (address a p).jobs = p.jobs ∧ (address a p).runList = p.runList ∧
    (address a p).verifier = p.verifier ∧ (address a p).printer = p.printer ∧ (address a p).thermal = p.thermal ∧
    (address a p).engine = p.engine ∧ (address a p).bays = p.bays ∧ (address a p).flow = p.flow ∧
    (address a p).links = p.links := by
  simp [address]

@[simp] theorem nextItem_keeps (is : List Item) (p : Part) :
    (nextItem is p).held = p.held ∧ (nextItem is p).strap = p.strap ∧ (nextItem is p).ring = p.ring ∧
    (nextItem is p).slots = p.slots ∧ (nextItem is p).jobs = p.jobs ∧ (nextItem is p).runList = p.runList ∧
    (nextItem is p).verifier = p.verifier ∧ (nextItem is p).printer = p.printer ∧
    (nextItem is p).thermal = p.thermal ∧ (nextItem is p).engine = p.engine ∧ (nextItem is p).bays = p.bays ∧
    (nextItem is p).flow = p.flow ∧ (nextItem is p).links = p.links := by
  induction is generalizing p with
  | nil => simp [nextItem]
  | cons i is ih =>
    unfold nextItem
    split
    · exact ih p
    · split <;> simp

@[simp] theorem itemOff_keeps (p : Part) :
    (itemOff p).held = p.held ∧ (itemOff p).strap = p.strap ∧ (itemOff p).ring = p.ring ∧
    (itemOff p).slots = p.slots ∧ (itemOff p).jobs = p.jobs ∧ (itemOff p).runList = p.runList ∧
    (itemOff p).verifier = p.verifier ∧ (itemOff p).printer = p.printer ∧ (itemOff p).thermal = p.thermal ∧
    (itemOff p).engine = p.engine ∧ (itemOff p).bays = p.bays ∧ (itemOff p).flow = p.flow ∧
    (itemOff p).links = p.links := by
  simp [itemOff]

@[simp] theorem goOn_keeps (p : Part) :
    (goOn p).held = p.held ∧ (goOn p).strap = p.strap ∧ (goOn p).ring = p.ring ∧ (goOn p).slots = p.slots ∧
    (goOn p).jobs = p.jobs ∧ (goOn p).runList = p.runList ∧ (goOn p).verifier = p.verifier ∧
    (goOn p).printer = p.printer ∧ (goOn p).thermal = p.thermal ∧ (goOn p).engine = p.engine ∧
    (goOn p).bays = p.bays ∧ (goOn p).flow = p.flow ∧ (goOn p).links = p.links := by
  simp [goOn]

@[simp] theorem judgePoll_keeps (a : Bool) (p : Part) :
    (judgePoll a p).held = p.held ∧ (judgePoll a p).strap = p.strap ∧ (judgePoll a p).ring = p.ring ∧
    (judgePoll a p).slots = p.slots ∧ (judgePoll a p).jobs = p.jobs ∧ (judgePoll a p).runList = p.runList ∧
    (judgePoll a p).verifier = p.verifier ∧ (judgePoll a p).printer = p.printer ∧
    (judgePoll a p).thermal = p.thermal ∧ (judgePoll a p).engine = p.engine ∧ (judgePoll a p).bays = p.bays ∧
    (judgePoll a p).flow = p.flow ∧ (judgePoll a p).links = p.links := by
  unfold judgePoll
  try dsimp only
  (repeat' split) <;> simp

@[simp] theorem endFruitless_keeps (e : RingEntry) (p : Part) :
    (endFruitless e p).held = p.held ∧ (endFruitless e p).strap = p.strap ∧ (endFruitless e p).ring = p.ring ∧
    (endFruitless e p).slots = p.slots ∧ (endFruitless e p).jobs = p.jobs ∧ (endFruitless e p).runList = p.runList ∧
    (endFruitless e p).verifier = p.verifier ∧ (endFruitless e p).printer = p.printer ∧
    (endFruitless e p).thermal = p.thermal ∧ (endFruitless e p).engine = p.engine ∧
    (endFruitless e p).bays = p.bays ∧ (endFruitless e p).flow = p.flow ∧ (endFruitless e p).links = p.links := by
  unfold endFruitless
  try dsimp only
  (repeat' split) <;> simp

@[simp] theorem endMoved_keeps (p : Part) :
    (endMoved p).held = p.held ∧ (endMoved p).strap = p.strap ∧ (endMoved p).ring = p.ring ∧
    (endMoved p).slots = p.slots ∧ (endMoved p).jobs = p.jobs ∧ (endMoved p).runList = p.runList ∧
    (endMoved p).verifier = p.verifier ∧ (endMoved p).printer = p.printer ∧ (endMoved p).thermal = p.thermal ∧
    (endMoved p).engine = p.engine ∧ (endMoved p).bays = p.bays ∧ (endMoved p).flow = p.flow ∧
    (endMoved p).links = p.links := by
  simp [endMoved]

@[simp] theorem freeBay_keeps (b : BayNum) (p : Part) :
    (freeBay b p).held = p.held ∧ (freeBay b p).strap = p.strap ∧ (freeBay b p).ring = p.ring ∧
    (freeBay b p).slots = p.slots ∧ (freeBay b p).jobs = p.jobs ∧ (freeBay b p).runList = p.runList ∧
    (freeBay b p).verifier = p.verifier ∧ (freeBay b p).printer = p.printer ∧ (freeBay b p).thermal = p.thermal ∧
    (freeBay b p).engine = p.engine ∧ (freeBay b p).bus = p.bus ∧ (freeBay b p).flow = p.flow ∧
    (freeBay b p).links.map LinkEvents.unread = p.links.map LinkEvents.unread ∧
    (freeBay b p).links.map LinkEvents.mask = p.links.map LinkEvents.mask := by
  unfold freeBay
  try dsimp only
  (repeat' split) <;> simp

@[simp] theorem countFailure_keeps (b : BayNum) (p : Part) :
    (countFailure b p).held = p.held ∧ (countFailure b p).strap = p.strap ∧ (countFailure b p).ring = p.ring ∧
    (countFailure b p).slots = p.slots ∧ (countFailure b p).jobs = p.jobs ∧ (countFailure b p).runList = p.runList ∧
    (countFailure b p).verifier = p.verifier ∧ (countFailure b p).printer = p.printer ∧
    (countFailure b p).thermal = p.thermal ∧ (countFailure b p).engine = p.engine ∧ (countFailure b p).bus = p.bus ∧
    (countFailure b p).flow = p.flow ∧
    (countFailure b p).links.map LinkEvents.unread = p.links.map LinkEvents.unread ∧
    (countFailure b p).links.map LinkEvents.mask = p.links.map LinkEvents.mask := by
  unfold countFailure
  try dsimp only
  (repeat' split) <;> simp

@[simp] theorem startHousekeeping_keeps (b : BayNum) (p : Part) :
    (startHousekeeping b p).held = p.held ∧ (startHousekeeping b p).strap = p.strap ∧
    (startHousekeeping b p).ring = p.ring ∧ (startHousekeeping b p).slots = p.slots ∧
    (startHousekeeping b p).jobs = p.jobs ∧ (startHousekeeping b p).runList = p.runList ∧
    (startHousekeeping b p).verifier = p.verifier ∧ (startHousekeeping b p).printer = p.printer ∧
    (startHousekeeping b p).thermal = p.thermal ∧ (startHousekeeping b p).engine = p.engine ∧
    (startHousekeeping b p).bus = p.bus ∧ (startHousekeeping b p).flow = p.flow ∧
    (startHousekeeping b p).links = p.links := by
  simp [startHousekeeping]

@[simp] theorem restartHousekeeping_keeps (b : BayNum) (p : Part) :
    (restartHousekeeping b p).held = p.held ∧ (restartHousekeeping b p).strap = p.strap ∧
    (restartHousekeeping b p).ring = p.ring ∧ (restartHousekeeping b p).slots = p.slots ∧
    (restartHousekeeping b p).jobs = p.jobs ∧ (restartHousekeeping b p).runList = p.runList ∧
    (restartHousekeeping b p).verifier = p.verifier ∧ (restartHousekeeping b p).printer = p.printer ∧
    (restartHousekeeping b p).thermal = p.thermal ∧ (restartHousekeeping b p).engine = p.engine ∧
    (restartHousekeeping b p).bus = p.bus ∧ (restartHousekeeping b p).flow = p.flow ∧
    (restartHousekeeping b p).links = p.links := by
  unfold restartHousekeeping
  split <;> simp

@[simp] theorem startProbe_keeps (b : BayNum) (p : Part) :
    (startProbe b p).held = p.held ∧ (startProbe b p).strap = p.strap ∧ (startProbe b p).ring = p.ring ∧
    (startProbe b p).slots = p.slots ∧ (startProbe b p).jobs = p.jobs ∧ (startProbe b p).runList = p.runList ∧
    (startProbe b p).verifier = p.verifier ∧ (startProbe b p).printer = p.printer ∧
    (startProbe b p).thermal = p.thermal ∧ (startProbe b p).engine = p.engine ∧ (startProbe b p).bus = p.bus ∧
    (startProbe b p).flow = p.flow ∧ (startProbe b p).links = p.links := by
  simp [startProbe]

@[simp] theorem takeRecord_keeps (b : BayNum) (r : StatusRecord) (p : Part) :
    (takeRecord b r p).held = p.held ∧ (takeRecord b r p).strap = p.strap ∧ (takeRecord b r p).ring = p.ring ∧
    (takeRecord b r p).slots = p.slots ∧ (takeRecord b r p).jobs = p.jobs ∧ (takeRecord b r p).runList = p.runList ∧
    (takeRecord b r p).verifier = p.verifier ∧ (takeRecord b r p).printer = p.printer ∧
    (takeRecord b r p).thermal.limits = p.thermal.limits ∧ (takeRecord b r p).engine = p.engine ∧
    (takeRecord b r p).bus = p.bus ∧ (takeRecord b r p).flow = p.flow ∧
    (takeRecord b r p).links.map LinkEvents.unread = p.links.map LinkEvents.unread ∧
    (takeRecord b r p).links.map LinkEvents.mask = p.links.map LinkEvents.mask := by
  unfold takeRecord
  try dsimp only
  (repeat' split) <;> simp

@[simp] theorem judgeSilence_keeps (b : BayNum) (p : Part) :
    (judgeSilence b p).held = p.held ∧ (judgeSilence b p).strap = p.strap ∧ (judgeSilence b p).ring = p.ring ∧
    (judgeSilence b p).slots = p.slots ∧ (judgeSilence b p).jobs = p.jobs ∧ (judgeSilence b p).runList = p.runList ∧
    (judgeSilence b p).verifier = p.verifier ∧ (judgeSilence b p).printer = p.printer ∧
    (judgeSilence b p).thermal = p.thermal ∧ (judgeSilence b p).engine = p.engine ∧ (judgeSilence b p).bus = p.bus ∧
    (judgeSilence b p).flow = p.flow ∧
    (judgeSilence b p).links.map LinkEvents.unread = p.links.map LinkEvents.unread ∧
    (judgeSilence b p).links.map LinkEvents.mask = p.links.map LinkEvents.mask := by
  unfold judgeSilence
  try dsimp only
  (repeat' split) <;> simp

@[simp] theorem removeDisc_keeps (id : Nat) (p : Part) :
    (removeDisc id p).held = p.held ∧ (removeDisc id p).strap = p.strap ∧ (removeDisc id p).ring = p.ring ∧
    (removeDisc id p).slots = p.slots ∧ (removeDisc id p).jobs = p.jobs ∧ (removeDisc id p).runList = p.runList ∧
    (removeDisc id p).verifier = p.verifier ∧ (removeDisc id p).printer = p.printer ∧
    (removeDisc id p).thermal = p.thermal ∧ (removeDisc id p).engine = p.engine ∧ (removeDisc id p).bus = p.bus ∧
    (removeDisc id p).bays = p.bays ∧ (removeDisc id p).flow.held = p.flow.held ∧
    (removeDisc id p).flow.spindles = p.flow.spindles ∧ (removeDisc id p).flow.acceptFull = p.flow.acceptFull ∧
    (removeDisc id p).flow.rejectFull = p.flow.rejectFull ∧ (removeDisc id p).flow.issued = p.flow.issued ∧
    (removeDisc id p).links = p.links := by
  simp [removeDisc]

@[simp] theorem insertDisc_keeps (d : Disc) (p : Part) :
    (insertDisc d p).held = p.held ∧ (insertDisc d p).strap = p.strap ∧ (insertDisc d p).ring = p.ring ∧
    (insertDisc d p).slots = p.slots ∧ (insertDisc d p).jobs = p.jobs ∧ (insertDisc d p).runList = p.runList ∧
    (insertDisc d p).verifier = p.verifier ∧ (insertDisc d p).printer = p.printer ∧
    (insertDisc d p).thermal = p.thermal ∧ (insertDisc d p).engine = p.engine ∧ (insertDisc d p).bus = p.bus ∧
    (insertDisc d p).bays = p.bays ∧ (insertDisc d p).flow.held = p.flow.held ∧
    (insertDisc d p).flow.spindles = p.flow.spindles ∧ (insertDisc d p).flow.acceptFull = p.flow.acceptFull ∧
    (insertDisc d p).flow.rejectFull = p.flow.rejectFull ∧ (insertDisc d p).flow.issued = p.flow.issued ∧
    (insertDisc d p).links = p.links := by
  simp [insertDisc]

@[simp] theorem createDisc_keeps (f : Nat → Disc) (p : Part) :
    (createDisc f p).held = p.held ∧ (createDisc f p).strap = p.strap ∧ (createDisc f p).ring = p.ring ∧
    (createDisc f p).slots = p.slots ∧ (createDisc f p).jobs = p.jobs ∧ (createDisc f p).runList = p.runList ∧
    (createDisc f p).verifier = p.verifier ∧ (createDisc f p).printer = p.printer ∧
    (createDisc f p).thermal = p.thermal ∧ (createDisc f p).engine = p.engine ∧ (createDisc f p).bus = p.bus ∧
    (createDisc f p).bays = p.bays ∧ (createDisc f p).flow.held = p.flow.held ∧
    (createDisc f p).flow.spindles = p.flow.spindles ∧ (createDisc f p).flow.acceptFull = p.flow.acceptFull ∧
    (createDisc f p).flow.rejectFull = p.flow.rejectFull ∧ (createDisc f p).flow.issued = p.flow.issued ∧
    (createDisc f p).links = p.links := by
  simp [createDisc]

@[simp] theorem leavePlace_keeps (x : Position) (p : Part) :
    (leavePlace x p).held = p.held ∧ (leavePlace x p).strap = p.strap ∧ (leavePlace x p).ring = p.ring ∧
    (leavePlace x p).slots = p.slots ∧ (leavePlace x p).jobs = p.jobs ∧ (leavePlace x p).runList = p.runList ∧
    (leavePlace x p).verifier = p.verifier ∧ (leavePlace x p).printer = p.printer ∧
    (leavePlace x p).thermal = p.thermal ∧ (leavePlace x p).engine = p.engine ∧ (leavePlace x p).bus = p.bus ∧
    (leavePlace x p).flow = p.flow ∧ (leavePlace x p).links.map LinkEvents.unread = p.links.map LinkEvents.unread ∧
    (leavePlace x p).links.map LinkEvents.mask = p.links.map LinkEvents.mask := by
  unfold leavePlace
  try dsimp only
  (repeat' split) <;> simp

@[simp] theorem followBay_keeps (x : Position) (st : DiscState) (p : Part) :
    (followBay x st p).held = p.held ∧ (followBay x st p).strap = p.strap ∧ (followBay x st p).ring = p.ring ∧
    (followBay x st p).slots = p.slots ∧ (followBay x st p).jobs = p.jobs ∧ (followBay x st p).runList = p.runList ∧
    (followBay x st p).verifier = p.verifier ∧ (followBay x st p).printer = p.printer ∧
    (followBay x st p).thermal = p.thermal ∧ (followBay x st p).engine = p.engine ∧ (followBay x st p).bus = p.bus ∧
    (followBay x st p).flow = p.flow ∧ (followBay x st p).links = p.links := by
  unfold followBay
  try dsimp only
  (repeat' split) <;> simp

@[simp] theorem enterState_keeps (d : Disc) (st : DiscState) (f : Disc → Disc) (p : Part) :
    (enterState d st f p).held = p.held ∧ (enterState d st f p).strap = p.strap ∧
    (enterState d st f p).ring = p.ring ∧ (enterState d st f p).slots = p.slots ∧
    (enterState d st f p).jobs = p.jobs ∧ (enterState d st f p).runList = p.runList ∧
    (enterState d st f p).verifier = p.verifier ∧ (enterState d st f p).printer = p.printer ∧
    (enterState d st f p).thermal = p.thermal ∧ (enterState d st f p).engine = p.engine ∧
    (enterState d st f p).bus = p.bus ∧ (enterState d st f p).flow.held = p.flow.held ∧
    (enterState d st f p).flow.spindles = p.flow.spindles ∧
    (enterState d st f p).flow.acceptFull = p.flow.acceptFull ∧
    (enterState d st f p).flow.rejectFull = p.flow.rejectFull ∧ (enterState d st f p).flow.issued = p.flow.issued ∧
    (enterState d st f p).links = p.links := by
  simp [enterState]

@[simp] theorem judgeMove_keeps (p : Part) :
    (judgeMove p).held = p.held ∧ (judgeMove p).strap = p.strap ∧ (judgeMove p).ring = p.ring ∧
    (judgeMove p).slots = p.slots ∧ (judgeMove p).jobs = p.jobs ∧ (judgeMove p).runList = p.runList ∧
    (judgeMove p).verifier = p.verifier ∧ (judgeMove p).printer = p.printer ∧ (judgeMove p).thermal = p.thermal ∧
    (judgeMove p).engine = p.engine ∧ (judgeMove p).bus = p.bus ∧ (judgeMove p).bays = p.bays ∧
    (judgeMove p).flow.held = p.flow.held ∧ (judgeMove p).flow.spindles = p.flow.spindles ∧
    (judgeMove p).flow.acceptFull = p.flow.acceptFull ∧ (judgeMove p).flow.rejectFull = p.flow.rejectFull ∧
    (judgeMove p).flow.issued = p.flow.issued ∧
    (judgeMove p).links.map LinkEvents.unread = p.links.map LinkEvents.unread ∧
    (judgeMove p).links.map LinkEvents.mask = p.links.map LinkEvents.mask := by
  simp [judgeMove]

@[simp] theorem addOrder_keeps (k : MoveKind) (id : Nat) (a b : Position) (p : Part) :
    (addOrder k id a b p).held = p.held ∧ (addOrder k id a b p).strap = p.strap ∧
    (addOrder k id a b p).ring = p.ring ∧ (addOrder k id a b p).slots = p.slots ∧
    (addOrder k id a b p).jobs = p.jobs ∧ (addOrder k id a b p).runList = p.runList ∧
    (addOrder k id a b p).verifier = p.verifier ∧ (addOrder k id a b p).printer = p.printer ∧
    (addOrder k id a b p).thermal = p.thermal ∧ (addOrder k id a b p).engine = p.engine ∧
    (addOrder k id a b p).bus = p.bus ∧ (addOrder k id a b p).bays = p.bays ∧
    (addOrder k id a b p).flow.held = p.flow.held ∧ (addOrder k id a b p).flow.spindles = p.flow.spindles ∧
    (addOrder k id a b p).flow.acceptFull = p.flow.acceptFull ∧
    (addOrder k id a b p).flow.rejectFull = p.flow.rejectFull ∧ (addOrder k id a b p).flow.issued = p.flow.issued ∧
    (addOrder k id a b p).links.map LinkEvents.unread = p.links.map LinkEvents.unread ∧
    (addOrder k id a b p).links.map LinkEvents.mask = p.links.map LinkEvents.mask := by
  simp [addOrder]

@[simp] theorem dropOrder_keeps (o : Order) (p : Part) :
    (dropOrder o p).held = p.held ∧ (dropOrder o p).strap = p.strap ∧ (dropOrder o p).ring = p.ring ∧
    (dropOrder o p).slots = p.slots ∧ (dropOrder o p).jobs = p.jobs ∧ (dropOrder o p).runList = p.runList ∧
    (dropOrder o p).verifier = p.verifier ∧ (dropOrder o p).printer = p.printer ∧
    (dropOrder o p).thermal = p.thermal ∧ (dropOrder o p).engine = p.engine ∧ (dropOrder o p).bus = p.bus ∧
    (dropOrder o p).bays = p.bays ∧ (dropOrder o p).flow.held = p.flow.held ∧
    (dropOrder o p).flow.spindles = p.flow.spindles ∧ (dropOrder o p).flow.acceptFull = p.flow.acceptFull ∧
    (dropOrder o p).flow.rejectFull = p.flow.rejectFull ∧ (dropOrder o p).links = p.links := by
  simp [dropOrder]

@[simp] theorem routeFailed_keeps (d : Disc) (p : Part) :
    (routeFailed d p).held = p.held ∧ (routeFailed d p).strap = p.strap ∧ (routeFailed d p).ring = p.ring ∧
    (routeFailed d p).slots = p.slots ∧ (routeFailed d p).jobs = p.jobs ∧ (routeFailed d p).runList = p.runList ∧
    (routeFailed d p).verifier = p.verifier ∧ (routeFailed d p).printer = p.printer ∧
    (routeFailed d p).thermal = p.thermal ∧ (routeFailed d p).engine = p.engine ∧ (routeFailed d p).bus = p.bus ∧
    (routeFailed d p).bays = p.bays ∧ (routeFailed d p).flow.held = p.flow.held ∧
    (routeFailed d p).flow.spindles = p.flow.spindles ∧ (routeFailed d p).flow.acceptFull = p.flow.acceptFull ∧
    (routeFailed d p).flow.rejectFull = p.flow.rejectFull ∧ (routeFailed d p).flow.issued = p.flow.issued ∧
    (routeFailed d p).links.map LinkEvents.unread = p.links.map LinkEvents.unread ∧
    (routeFailed d p).links.map LinkEvents.mask = p.links.map LinkEvents.mask := by
  unfold routeFailed
  try dsimp only
  (repeat' split) <;> simp

@[simp] theorem markFailed_keeps (d : Disc) (w : RejectReason) (p : Part) :
    (markFailed d w p).held = p.held ∧ (markFailed d w p).strap = p.strap ∧ (markFailed d w p).ring = p.ring ∧
    (markFailed d w p).slots = p.slots ∧ (markFailed d w p).jobs = p.jobs ∧ (markFailed d w p).runList = p.runList ∧
    (markFailed d w p).verifier = p.verifier ∧ (markFailed d w p).printer = p.printer ∧
    (markFailed d w p).thermal = p.thermal ∧ (markFailed d w p).engine = p.engine ∧ (markFailed d w p).bus = p.bus ∧
    (markFailed d w p).flow.held = p.flow.held ∧ (markFailed d w p).flow.spindles = p.flow.spindles ∧
    (markFailed d w p).flow.acceptFull = p.flow.acceptFull ∧
    (markFailed d w p).flow.rejectFull = p.flow.rejectFull ∧ (markFailed d w p).flow.issued = p.flow.issued ∧
    (markFailed d w p).links = p.links := by
  simp [markFailed]

@[simp] theorem failDisc_keeps (d : Disc) (w : RejectReason) (p : Part) :
    (failDisc d w p).held = p.held ∧ (failDisc d w p).strap = p.strap ∧ (failDisc d w p).ring = p.ring ∧
    (failDisc d w p).slots = p.slots ∧ (failDisc d w p).jobs = p.jobs ∧ (failDisc d w p).runList = p.runList ∧
    (failDisc d w p).verifier = p.verifier ∧ (failDisc d w p).printer = p.printer ∧
    (failDisc d w p).thermal = p.thermal ∧ (failDisc d w p).engine = p.engine ∧ (failDisc d w p).bus = p.bus ∧
    (failDisc d w p).flow.held = p.flow.held ∧ (failDisc d w p).flow.spindles = p.flow.spindles ∧
    (failDisc d w p).flow.acceptFull = p.flow.acceptFull ∧ (failDisc d w p).flow.rejectFull = p.flow.rejectFull ∧
    (failDisc d w p).flow.issued = p.flow.issued ∧
    (failDisc d w p).links.map LinkEvents.unread = p.links.map LinkEvents.unread ∧
    (failDisc d w p).links.map LinkEvents.mask = p.links.map LinkEvents.mask := by
  simp [failDisc]

@[simp] theorem orphanInBay_keeps (b : BayNum) (p : Part) :
    (orphanInBay b p).held = p.held ∧ (orphanInBay b p).strap = p.strap ∧ (orphanInBay b p).ring = p.ring ∧
    (orphanInBay b p).slots = p.slots ∧ (orphanInBay b p).jobs = p.jobs ∧ (orphanInBay b p).runList = p.runList ∧
    (orphanInBay b p).verifier = p.verifier ∧ (orphanInBay b p).printer = p.printer ∧
    (orphanInBay b p).thermal = p.thermal ∧ (orphanInBay b p).engine = p.engine ∧ (orphanInBay b p).bus = p.bus ∧
    (orphanInBay b p).flow.held = p.flow.held ∧ (orphanInBay b p).flow.spindles = p.flow.spindles ∧
    (orphanInBay b p).flow.acceptFull = p.flow.acceptFull ∧ (orphanInBay b p).flow.rejectFull = p.flow.rejectFull ∧
    (orphanInBay b p).flow.issued = p.flow.issued ∧
    (orphanInBay b p).links.map LinkEvents.unread = p.links.map LinkEvents.unread ∧
    (orphanInBay b p).links.map LinkEvents.mask = p.links.map LinkEvents.mask := by
  simp [orphanInBay]

@[simp] theorem withdraw_keeps (o : Order) (p : Part) :
    (withdraw o p).held = p.held ∧ (withdraw o p).strap = p.strap ∧ (withdraw o p).ring = p.ring ∧
    (withdraw o p).slots = p.slots ∧ (withdraw o p).jobs = p.jobs ∧ (withdraw o p).runList = p.runList ∧
    (withdraw o p).verifier = p.verifier ∧ (withdraw o p).printer = p.printer ∧ (withdraw o p).thermal = p.thermal ∧
    (withdraw o p).engine = p.engine ∧ (withdraw o p).bus = p.bus ∧ (withdraw o p).flow.held = p.flow.held ∧
    (withdraw o p).flow.spindles = p.flow.spindles ∧ (withdraw o p).flow.acceptFull = p.flow.acceptFull ∧
    (withdraw o p).flow.rejectFull = p.flow.rejectFull ∧
    (withdraw o p).links.map LinkEvents.unread = p.links.map LinkEvents.unread ∧
    (withdraw o p).links.map LinkEvents.mask = p.links.map LinkEvents.mask := by
  simp [withdraw]

@[simp] theorem withdrawPickOf_keeps (j : JobNum) (p : Part) :
    (withdrawPickOf j p).held = p.held ∧ (withdrawPickOf j p).strap = p.strap ∧ (withdrawPickOf j p).ring = p.ring ∧
    (withdrawPickOf j p).slots = p.slots ∧ (withdrawPickOf j p).jobs = p.jobs ∧
    (withdrawPickOf j p).runList = p.runList ∧ (withdrawPickOf j p).verifier = p.verifier ∧
    (withdrawPickOf j p).printer = p.printer ∧ (withdrawPickOf j p).thermal = p.thermal ∧
    (withdrawPickOf j p).engine = p.engine ∧ (withdrawPickOf j p).bus = p.bus ∧
    (withdrawPickOf j p).flow.held = p.flow.held ∧ (withdrawPickOf j p).flow.spindles = p.flow.spindles ∧
    (withdrawPickOf j p).flow.acceptFull = p.flow.acceptFull ∧
    (withdrawPickOf j p).flow.rejectFull = p.flow.rejectFull ∧
    (withdrawPickOf j p).links.map LinkEvents.unread = p.links.map LinkEvents.unread ∧
    (withdrawPickOf j p).links.map LinkEvents.mask = p.links.map LinkEvents.mask := by
  unfold withdrawPickOf
  try dsimp only
  (repeat' split) <;> simp

@[simp] theorem setJobState_keeps (j : JobNum) (x : Job) (st : JobState) (w : Option HaltReason) (p : Part) :
    (setJobState j x st w p).held = p.held ∧ (setJobState j x st w p).strap = p.strap ∧
    (setJobState j x st w p).ring = p.ring ∧ (setJobState j x st w p).slots = p.slots ∧
    (setJobState j x st w p).runList = p.runList ∧ (setJobState j x st w p).verifier = p.verifier ∧
    (setJobState j x st w p).printer = p.printer ∧ (setJobState j x st w p).thermal = p.thermal ∧
    (setJobState j x st w p).engine = p.engine ∧ (setJobState j x st w p).bus = p.bus ∧
    (setJobState j x st w p).bays = p.bays ∧ (setJobState j x st w p).flow = p.flow ∧
    (setJobState j x st w p).links.map LinkEvents.unread = p.links.map LinkEvents.unread ∧
    (setJobState j x st w p).links.map LinkEvents.mask = p.links.map LinkEvents.mask := by
  simp [setJobState]

@[simp] theorem admitOne_keeps (p : Part) :
    (admitOne p).held = p.held ∧ (admitOne p).strap = p.strap ∧ (admitOne p).ring = p.ring ∧
    (admitOne p).slots = p.slots ∧ (admitOne p).runList = p.runList ∧ (admitOne p).verifier = p.verifier ∧
    (admitOne p).printer = p.printer ∧ (admitOne p).thermal = p.thermal ∧ (admitOne p).engine = p.engine ∧
    (admitOne p).bus = p.bus ∧ (admitOne p).bays = p.bays ∧ (admitOne p).flow = p.flow ∧
    (admitOne p).links.map LinkEvents.unread = p.links.map LinkEvents.unread ∧
    (admitOne p).links.map LinkEvents.mask = p.links.map LinkEvents.mask := by
  unfold admitOne
  try dsimp only
  (repeat' split) <;> simp

@[simp] theorem admitJobs_keeps (p : Part) :
    (admitJobs p).held = p.held ∧ (admitJobs p).strap = p.strap ∧ (admitJobs p).ring = p.ring ∧ (admitJobs p).slots = p.slots ∧
    (admitJobs p).runList = p.runList ∧ (admitJobs p).verifier = p.verifier ∧ (admitJobs p).printer = p.printer ∧
    (admitJobs p).thermal = p.thermal ∧ (admitJobs p).engine = p.engine ∧ (admitJobs p).bus = p.bus ∧ (admitJobs p).bays = p.bays ∧
    (admitJobs p).flow = p.flow ∧ (admitJobs p).links.map LinkEvents.unread = p.links.map LinkEvents.unread ∧
    (admitJobs p).links.map LinkEvents.mask = p.links.map LinkEvents.mask := by
  simp [admitJobs]

@[simp] theorem releaseRefs_keeps (x : Job) (p : Part) :
    (releaseRefs x p).held = p.held ∧ (releaseRefs x p).strap = p.strap ∧ (releaseRefs x p).ring = p.ring ∧
    (releaseRefs x p).jobs = p.jobs ∧ (releaseRefs x p).runList = p.runList ∧
    (releaseRefs x p).verifier = p.verifier ∧ (releaseRefs x p).printer = p.printer ∧
    (releaseRefs x p).thermal = p.thermal ∧ (releaseRefs x p).engine = p.engine ∧ (releaseRefs x p).bus = p.bus ∧
    (releaseRefs x p).bays = p.bays ∧ (releaseRefs x p).flow = p.flow ∧
    (releaseRefs x p).links.map LinkEvents.unread = p.links.map LinkEvents.unread ∧
    (releaseRefs x p).links.map LinkEvents.mask = p.links.map LinkEvents.mask := by
  unfold releaseRefs
  try dsimp only
  (repeat' split) <;> simp

@[simp] theorem finishJob_keeps (j : JobNum) (x : Job) (st : JobState) (p : Part) :
    (finishJob j x st p).held = p.held ∧ (finishJob j x st p).strap = p.strap ∧ (finishJob j x st p).ring = p.ring ∧
    (finishJob j x st p).verifier = p.verifier ∧ (finishJob j x st p).printer = p.printer ∧
    (finishJob j x st p).thermal = p.thermal ∧ (finishJob j x st p).engine = p.engine ∧
    (finishJob j x st p).bus = p.bus ∧ (finishJob j x st p).bays = p.bays ∧ (finishJob j x st p).flow = p.flow ∧
    (finishJob j x st p).links.map LinkEvents.unread = p.links.map LinkEvents.unread ∧
    (finishJob j x st p).links.map LinkEvents.mask = p.links.map LinkEvents.mask := by
  simp [finishJob]

@[simp] theorem endDrain_keeps (j : JobNum) (p : Part) :
    (endDrain j p).held = p.held ∧ (endDrain j p).strap = p.strap ∧ (endDrain j p).ring = p.ring ∧
    (endDrain j p).verifier = p.verifier ∧ (endDrain j p).printer = p.printer ∧ (endDrain j p).thermal = p.thermal ∧
    (endDrain j p).engine = p.engine ∧ (endDrain j p).bus = p.bus ∧ (endDrain j p).bays = p.bays ∧
    (endDrain j p).flow = p.flow ∧ (endDrain j p).links.map LinkEvents.unread = p.links.map LinkEvents.unread ∧
    (endDrain j p).links.map LinkEvents.mask = p.links.map LinkEvents.mask := by
  unfold endDrain
  try dsimp only
  (repeat' split) <;> simp

@[simp] theorem haltRunning_keeps (j : JobNum) (x : Job) (w : HaltReason) (p : Part) :
    (haltRunning j x w p).held = p.held ∧ (haltRunning j x w p).strap = p.strap ∧
    (haltRunning j x w p).ring = p.ring ∧ (haltRunning j x w p).verifier = p.verifier ∧
    (haltRunning j x w p).printer = p.printer ∧ (haltRunning j x w p).thermal = p.thermal ∧
    (haltRunning j x w p).engine = p.engine ∧ (haltRunning j x w p).bus = p.bus ∧
    (haltRunning j x w p).flow.held = p.flow.held ∧ (haltRunning j x w p).flow.spindles = p.flow.spindles ∧
    (haltRunning j x w p).flow.acceptFull = p.flow.acceptFull ∧
    (haltRunning j x w p).flow.rejectFull = p.flow.rejectFull ∧
    (haltRunning j x w p).links.map LinkEvents.unread = p.links.map LinkEvents.unread ∧
    (haltRunning j x w p).links.map LinkEvents.mask = p.links.map LinkEvents.mask := by
  simp [haltRunning]

@[simp] theorem report_keeps (j : Option JobNum) (c : CounterChange) (p : Part) :
    (report j c p).held = p.held ∧ (report j c p).strap = p.strap ∧ (report j c p).ring = p.ring ∧
    (report j c p).verifier = p.verifier ∧ (report j c p).printer = p.printer ∧ (report j c p).thermal = p.thermal ∧
    (report j c p).engine = p.engine ∧ (report j c p).bus = p.bus ∧ (report j c p).flow.held = p.flow.held ∧
    (report j c p).flow.spindles = p.flow.spindles ∧ (report j c p).flow.acceptFull = p.flow.acceptFull ∧
    (report j c p).flow.rejectFull = p.flow.rejectFull ∧
    (report j c p).links.map LinkEvents.unread = p.links.map LinkEvents.unread ∧
    (report j c p).links.map LinkEvents.mask = p.links.map LinkEvents.mask := by
  unfold report
  try dsimp only
  (repeat' split) <;> simp

@[simp] theorem withdrawAndReport_keeps (o : Order) (p : Part) :
    (withdrawAndReport o p).held = p.held ∧ (withdrawAndReport o p).strap = p.strap ∧
    (withdrawAndReport o p).ring = p.ring ∧ (withdrawAndReport o p).verifier = p.verifier ∧
    (withdrawAndReport o p).printer = p.printer ∧ (withdrawAndReport o p).thermal = p.thermal ∧
    (withdrawAndReport o p).engine = p.engine ∧ (withdrawAndReport o p).bus = p.bus ∧
    (withdrawAndReport o p).flow.held = p.flow.held ∧ (withdrawAndReport o p).flow.spindles = p.flow.spindles ∧
    (withdrawAndReport o p).flow.acceptFull = p.flow.acceptFull ∧
    (withdrawAndReport o p).flow.rejectFull = p.flow.rejectFull ∧
    (withdrawAndReport o p).links.map LinkEvents.unread = p.links.map LinkEvents.unread ∧
    (withdrawAndReport o p).links.map LinkEvents.mask = p.links.map LinkEvents.mask := by
  simp [withdrawAndReport]

@[simp] theorem judgePick_keeps (p : Part) :
    (judgePick p).held = p.held ∧ (judgePick p).strap = p.strap ∧ (judgePick p).ring = p.ring ∧
    (judgePick p).slots = p.slots ∧ (judgePick p).jobs = p.jobs ∧ (judgePick p).runList = p.runList ∧
    (judgePick p).verifier = p.verifier ∧ (judgePick p).printer = p.printer ∧ (judgePick p).thermal = p.thermal ∧
    (judgePick p).engine = p.engine ∧ (judgePick p).bus = p.bus ∧ (judgePick p).flow.held = p.flow.held ∧
    (judgePick p).flow.spindles = p.flow.spindles ∧ (judgePick p).flow.acceptFull = p.flow.acceptFull ∧
    (judgePick p).flow.rejectFull = p.flow.rejectFull ∧ (judgePick p).flow.issued = p.flow.issued ∧
    (judgePick p).links.map LinkEvents.unread = p.links.map LinkEvents.unread ∧
    (judgePick p).links.map LinkEvents.mask = p.links.map LinkEvents.mask := by
  unfold judgePick
  try dsimp only
  (repeat' split) <;> simp

@[simp] theorem modSession_keeps (n : SessionNum) (f : Session → Session) (p : Part) :
    (modSession n f p).held = p.held ∧ (modSession n f p).strap = p.strap ∧ (modSession n f p).ring = p.ring ∧
    (modSession n f p).slots = p.slots ∧ (modSession n f p).jobs = p.jobs ∧ (modSession n f p).runList = p.runList ∧
    (modSession n f p).verifier = p.verifier ∧ (modSession n f p).printer = p.printer ∧
    (modSession n f p).thermal = p.thermal ∧ (modSession n f p).engine.settings = p.engine.settings ∧
    (modSession n f p).bus = p.bus ∧ (modSession n f p).bays = p.bays ∧ (modSession n f p).flow = p.flow ∧
    (modSession n f p).links = p.links := by
  unfold modSession
  try dsimp only
  (repeat' split) <;> simp

@[simp] theorem reportDropped_keeps (b : BayNum) (w : RejectReason) (p : Part) :
    (reportDropped b w p).held = p.held ∧ (reportDropped b w p).strap = p.strap ∧
    (reportDropped b w p).ring = p.ring ∧ (reportDropped b w p).slots = p.slots ∧
    (reportDropped b w p).jobs = p.jobs ∧ (reportDropped b w p).runList = p.runList ∧
    (reportDropped b w p).verifier = p.verifier ∧ (reportDropped b w p).printer = p.printer ∧
    (reportDropped b w p).thermal = p.thermal ∧ (reportDropped b w p).engine = p.engine ∧
    (reportDropped b w p).bus = p.bus ∧ (reportDropped b w p).flow.held = p.flow.held ∧
    (reportDropped b w p).flow.spindles = p.flow.spindles ∧
    (reportDropped b w p).flow.acceptFull = p.flow.acceptFull ∧
    (reportDropped b w p).flow.rejectFull = p.flow.rejectFull ∧ (reportDropped b w p).flow.issued = p.flow.issued ∧
    (reportDropped b w p).links.map LinkEvents.unread = p.links.map LinkEvents.unread ∧
    (reportDropped b w p).links.map LinkEvents.mask = p.links.map LinkEvents.mask := by
  unfold reportDropped
  try dsimp only
  (repeat' split) <;> simp

@[simp] theorem removeMember_keeps (n : SessionNum) (b : BayNum) (p : Part) :
    (removeMember n b p).held = p.held ∧ (removeMember n b p).strap = p.strap ∧ (removeMember n b p).ring = p.ring ∧
    (removeMember n b p).slots = p.slots ∧ (removeMember n b p).jobs = p.jobs ∧
    (removeMember n b p).runList = p.runList ∧ (removeMember n b p).verifier = p.verifier ∧
    (removeMember n b p).printer = p.printer ∧ (removeMember n b p).thermal = p.thermal ∧
    (removeMember n b p).engine.settings = p.engine.settings ∧ (removeMember n b p).bus = p.bus ∧
    (removeMember n b p).bays = p.bays ∧ (removeMember n b p).flow = p.flow ∧ (removeMember n b p).links = p.links := by
  simp [removeMember]

@[simp] theorem askClear_keeps (w : Bool) (b : BayNum) (p : Part) :
    (askClear w b p).held = p.held ∧ (askClear w b p).strap = p.strap ∧ (askClear w b p).ring = p.ring ∧
    (askClear w b p).slots = p.slots ∧ (askClear w b p).jobs = p.jobs ∧ (askClear w b p).runList = p.runList ∧
    (askClear w b p).verifier = p.verifier ∧ (askClear w b p).printer = p.printer ∧
    (askClear w b p).thermal = p.thermal ∧ (askClear w b p).engine = p.engine ∧ (askClear w b p).bays = p.bays ∧
    (askClear w b p).flow = p.flow ∧ (askClear w b p).links = p.links := by
  unfold askClear
  try dsimp only
  (repeat' split) <;> simp

@[simp] theorem dropMember_keeps (n : SessionNum) (b : BayNum) (w : RejectReason) (c : Bool) (p : Part) :
    (dropMember n b w c p).held = p.held ∧ (dropMember n b w c p).strap = p.strap ∧
    (dropMember n b w c p).ring = p.ring ∧ (dropMember n b w c p).slots = p.slots ∧
    (dropMember n b w c p).jobs = p.jobs ∧ (dropMember n b w c p).runList = p.runList ∧
    (dropMember n b w c p).verifier = p.verifier ∧ (dropMember n b w c p).printer = p.printer ∧
    (dropMember n b w c p).thermal = p.thermal ∧ (dropMember n b w c p).engine.settings = p.engine.settings ∧
    (dropMember n b w c p).flow.held = p.flow.held ∧ (dropMember n b w c p).flow.spindles = p.flow.spindles ∧
    (dropMember n b w c p).flow.acceptFull = p.flow.acceptFull ∧
    (dropMember n b w c p).flow.rejectFull = p.flow.rejectFull ∧
    (dropMember n b w c p).flow.issued = p.flow.issued ∧
    (dropMember n b w c p).links.map LinkEvents.unread = p.links.map LinkEvents.unread ∧
    (dropMember n b w c p).links.map LinkEvents.mask = p.links.map LinkEvents.mask := by
  simp [dropMember]

@[simp] theorem dropMembers_keeps (n : SessionNum) (w : RejectReason) (c : Bool) (bs : List BayNum) (p : Part) :
    (dropMembers n w c bs p).held = p.held ∧ (dropMembers n w c bs p).strap = p.strap ∧
    (dropMembers n w c bs p).ring = p.ring ∧ (dropMembers n w c bs p).slots = p.slots ∧
    (dropMembers n w c bs p).jobs = p.jobs ∧ (dropMembers n w c bs p).runList = p.runList ∧
    (dropMembers n w c bs p).verifier = p.verifier ∧ (dropMembers n w c bs p).printer = p.printer ∧
    (dropMembers n w c bs p).thermal = p.thermal ∧ (dropMembers n w c bs p).engine.settings = p.engine.settings ∧
    (dropMembers n w c bs p).flow.held = p.flow.held ∧ (dropMembers n w c bs p).flow.spindles = p.flow.spindles ∧
    (dropMembers n w c bs p).flow.acceptFull = p.flow.acceptFull ∧
    (dropMembers n w c bs p).flow.rejectFull = p.flow.rejectFull ∧
    (dropMembers n w c bs p).flow.issued = p.flow.issued ∧
    (dropMembers n w c bs p).links.map LinkEvents.unread = p.links.map LinkEvents.unread ∧
    (dropMembers n w c bs p).links.map LinkEvents.mask = p.links.map LinkEvents.mask := by
  induction bs generalizing p with
  | nil => simp [dropMembers]
  | cons b bs ih => simp [dropMembers, ih]

@[simp] theorem endSession_keeps (n : SessionNum) (p : Part) :
    (endSession n p).held = p.held ∧ (endSession n p).strap = p.strap ∧ (endSession n p).ring = p.ring ∧
    (endSession n p).slots = p.slots ∧ (endSession n p).jobs = p.jobs ∧ (endSession n p).runList = p.runList ∧
    (endSession n p).verifier = p.verifier ∧ (endSession n p).printer = p.printer ∧
    (endSession n p).thermal = p.thermal ∧ (endSession n p).engine.settings = p.engine.settings ∧
    (endSession n p).bays = p.bays ∧ (endSession n p).flow = p.flow ∧ (endSession n p).links = p.links := by
  simp [endSession]

@[simp] theorem burnMembers_keeps (n : SessionNum) (bs : List BayNum) (p : Part) :
    (burnMembers n bs p).held = p.held ∧ (burnMembers n bs p).strap = p.strap ∧ (burnMembers n bs p).ring = p.ring ∧
    (burnMembers n bs p).slots = p.slots ∧ (burnMembers n bs p).jobs = p.jobs ∧
    (burnMembers n bs p).runList = p.runList ∧ (burnMembers n bs p).verifier = p.verifier ∧
    (burnMembers n bs p).printer = p.printer ∧ (burnMembers n bs p).thermal = p.thermal ∧
    (burnMembers n bs p).engine = p.engine ∧ (burnMembers n bs p).bus = p.bus ∧
    (burnMembers n bs p).flow.held = p.flow.held ∧ (burnMembers n bs p).flow.spindles = p.flow.spindles ∧
    (burnMembers n bs p).flow.acceptFull = p.flow.acceptFull ∧
    (burnMembers n bs p).flow.rejectFull = p.flow.rejectFull ∧ (burnMembers n bs p).flow.issued = p.flow.issued ∧
    (burnMembers n bs p).links = p.links := by
  induction bs generalizing p with
  | nil => simp [burnMembers]
  | cons b bs ih =>
    unfold burnMembers
    (repeat' split) <;> simp [ih]

@[simp] theorem leaveGathering_keeps (n : SessionNum) (p : Part) :
    (leaveGathering n p).held = p.held ∧ (leaveGathering n p).strap = p.strap ∧ (leaveGathering n p).ring = p.ring ∧
    (leaveGathering n p).slots = p.slots ∧ (leaveGathering n p).jobs = p.jobs ∧
    (leaveGathering n p).runList = p.runList ∧ (leaveGathering n p).verifier = p.verifier ∧
    (leaveGathering n p).printer = p.printer ∧ (leaveGathering n p).thermal = p.thermal ∧
    (leaveGathering n p).engine.settings = p.engine.settings ∧ (leaveGathering n p).flow.held = p.flow.held ∧
    (leaveGathering n p).flow.spindles = p.flow.spindles ∧
    (leaveGathering n p).flow.acceptFull = p.flow.acceptFull ∧
    (leaveGathering n p).flow.rejectFull = p.flow.rejectFull ∧ (leaveGathering n p).flow.issued = p.flow.issued ∧
    (leaveGathering n p).links.map LinkEvents.unread = p.links.map LinkEvents.unread ∧
    (leaveGathering n p).links.map LinkEvents.mask = p.links.map LinkEvents.mask := by
  unfold leaveGathering
  try dsimp only
  (repeat' split) <;> simp

@[simp] theorem judgeFull_keeps (n : SessionNum) (p : Part) :
    (judgeFull n p).held = p.held ∧ (judgeFull n p).strap = p.strap ∧ (judgeFull n p).ring = p.ring ∧
    (judgeFull n p).slots = p.slots ∧ (judgeFull n p).jobs = p.jobs ∧ (judgeFull n p).runList = p.runList ∧
    (judgeFull n p).verifier = p.verifier ∧ (judgeFull n p).printer = p.printer ∧
    (judgeFull n p).thermal = p.thermal ∧ (judgeFull n p).engine.settings = p.engine.settings ∧
    (judgeFull n p).flow.held = p.flow.held ∧ (judgeFull n p).flow.spindles = p.flow.spindles ∧
    (judgeFull n p).flow.acceptFull = p.flow.acceptFull ∧ (judgeFull n p).flow.rejectFull = p.flow.rejectFull ∧
    (judgeFull n p).flow.issued = p.flow.issued ∧
    (judgeFull n p).links.map LinkEvents.unread = p.links.map LinkEvents.unread ∧
    (judgeFull n p).links.map LinkEvents.mask = p.links.map LinkEvents.mask := by
  unfold judgeFull
  try dsimp only
  (repeat' split) <;> simp

theorem placeIn_keeps {p q : Part} {j : JobNum} {b : BayNum} {n : SessionNum}
    (h : placeIn p j b = some (n, q)) :
    q.held = p.held ∧ q.strap = p.strap ∧ q.ring = p.ring ∧ q.slots = p.slots ∧ q.jobs = p.jobs ∧
    q.runList = p.runList ∧ q.verifier = p.verifier ∧ q.printer = p.printer ∧ q.thermal = p.thermal ∧
    q.engine.settings = p.engine.settings ∧ q.bus = p.bus ∧ q.bays = p.bays ∧ q.flow = p.flow ∧
    q.links = p.links := by
  unfold placeIn at h
  (repeat' split at h) <;> simp at h <;> obtain ⟨-, rfl⟩ := h <;> simp

@[simp] theorem placeWaiting_keeps (k : Nat) (p : Part) :
    (placeWaiting k p).held = p.held ∧ (placeWaiting k p).strap = p.strap ∧ (placeWaiting k p).ring = p.ring ∧
    (placeWaiting k p).slots = p.slots ∧ (placeWaiting k p).jobs = p.jobs ∧ (placeWaiting k p).runList = p.runList ∧
    (placeWaiting k p).verifier = p.verifier ∧ (placeWaiting k p).printer = p.printer ∧
    (placeWaiting k p).thermal = p.thermal ∧ (placeWaiting k p).engine.settings = p.engine.settings ∧
    (placeWaiting k p).flow.held = p.flow.held ∧ (placeWaiting k p).flow.spindles = p.flow.spindles ∧
    (placeWaiting k p).flow.acceptFull = p.flow.acceptFull ∧
    (placeWaiting k p).flow.rejectFull = p.flow.rejectFull ∧ (placeWaiting k p).flow.issued = p.flow.issued ∧
    (placeWaiting k p).links.map LinkEvents.unread = p.links.map LinkEvents.unread ∧
    (placeWaiting k p).links.map LinkEvents.mask = p.links.map LinkEvents.mask := by
  induction k generalizing p with
  | zero => simp [placeWaiting]
  | succ k ih =>
    unfold placeWaiting
    split
    · simp
    · split
      · simp
      · rename_i h
        obtain ⟨j, -, h⟩ := Option.bind_eq_some_iff.mp h
        have h := placeIn_keeps h
        simp only [ih]
        split <;> simp [h]

@[simp] theorem reap_keeps (n : SessionNum) (p : Part) :
    (reap n p).held = p.held ∧ (reap n p).strap = p.strap ∧ (reap n p).ring = p.ring ∧ (reap n p).slots = p.slots ∧
    (reap n p).jobs = p.jobs ∧ (reap n p).runList = p.runList ∧ (reap n p).verifier = p.verifier ∧
    (reap n p).printer = p.printer ∧ (reap n p).thermal = p.thermal ∧
    (reap n p).engine.settings = p.engine.settings ∧ (reap n p).flow.held = p.flow.held ∧
    (reap n p).flow.spindles = p.flow.spindles ∧ (reap n p).flow.acceptFull = p.flow.acceptFull ∧
    (reap n p).flow.rejectFull = p.flow.rejectFull ∧ (reap n p).flow.issued = p.flow.issued ∧
    (reap n p).links.map LinkEvents.unread = p.links.map LinkEvents.unread ∧
    (reap n p).links.map LinkEvents.mask = p.links.map LinkEvents.mask := by
  unfold reap
  try dsimp only
  (repeat' split) <;> simp

@[simp] theorem leaveAndReap_keeps (n : SessionNum) (p : Part) :
    (leaveAndReap n p).held = p.held ∧ (leaveAndReap n p).strap = p.strap ∧ (leaveAndReap n p).ring = p.ring ∧
    (leaveAndReap n p).slots = p.slots ∧ (leaveAndReap n p).jobs = p.jobs ∧ (leaveAndReap n p).runList = p.runList ∧
    (leaveAndReap n p).verifier = p.verifier ∧ (leaveAndReap n p).printer = p.printer ∧
    (leaveAndReap n p).thermal = p.thermal ∧ (leaveAndReap n p).engine.settings = p.engine.settings ∧
    (leaveAndReap n p).flow.held = p.flow.held ∧ (leaveAndReap n p).flow.spindles = p.flow.spindles ∧
    (leaveAndReap n p).flow.acceptFull = p.flow.acceptFull ∧
    (leaveAndReap n p).flow.rejectFull = p.flow.rejectFull ∧ (leaveAndReap n p).flow.issued = p.flow.issued ∧
    (leaveAndReap n p).links.map LinkEvents.unread = p.links.map LinkEvents.unread ∧
    (leaveAndReap n p).links.map LinkEvents.mask = p.links.map LinkEvents.mask := by
  unfold leaveAndReap
  try dsimp only
  (repeat' split) <;> simp

@[simp] theorem placeLoaded_keeps (b : BayNum) (j : JobNum) (p : Part) :
    (placeLoaded b j p).held = p.held ∧ (placeLoaded b j p).strap = p.strap ∧ (placeLoaded b j p).ring = p.ring ∧
    (placeLoaded b j p).slots = p.slots ∧ (placeLoaded b j p).jobs = p.jobs ∧
    (placeLoaded b j p).runList = p.runList ∧ (placeLoaded b j p).verifier = p.verifier ∧
    (placeLoaded b j p).printer = p.printer ∧ (placeLoaded b j p).thermal = p.thermal ∧
    (placeLoaded b j p).engine.settings = p.engine.settings ∧ (placeLoaded b j p).flow.held = p.flow.held ∧
    (placeLoaded b j p).flow.spindles = p.flow.spindles ∧ (placeLoaded b j p).flow.acceptFull = p.flow.acceptFull ∧
    (placeLoaded b j p).flow.rejectFull = p.flow.rejectFull ∧ (placeLoaded b j p).flow.issued = p.flow.issued ∧
    (placeLoaded b j p).links.map LinkEvents.unread = p.links.map LinkEvents.unread ∧
    (placeLoaded b j p).links.map LinkEvents.mask = p.links.map LinkEvents.mask := by
  unfold placeLoaded
  split
  · simp
  · split
    · rename_i h
      have h := placeIn_keeps h
      simp only
      split <;> simp [h]
    · simp

@[simp] theorem judgePrepared_keeps (n : SessionNum) (p : Part) :
    (judgePrepared n p).held = p.held ∧ (judgePrepared n p).strap = p.strap ∧ (judgePrepared n p).ring = p.ring ∧
    (judgePrepared n p).slots = p.slots ∧ (judgePrepared n p).jobs = p.jobs ∧
    (judgePrepared n p).runList = p.runList ∧ (judgePrepared n p).verifier = p.verifier ∧
    (judgePrepared n p).printer = p.printer ∧ (judgePrepared n p).thermal = p.thermal ∧
    (judgePrepared n p).engine.settings = p.engine.settings ∧ (judgePrepared n p).bays = p.bays ∧
    (judgePrepared n p).flow = p.flow ∧ (judgePrepared n p).links = p.links := by
  unfold judgePrepared
  try dsimp only
  (repeat' split) <;> simp

@[simp] theorem beginClosing_keeps (n : SessionNum) (p : Part) :
    (beginClosing n p).held = p.held ∧ (beginClosing n p).strap = p.strap ∧ (beginClosing n p).ring = p.ring ∧
    (beginClosing n p).slots = p.slots ∧ (beginClosing n p).jobs = p.jobs ∧ (beginClosing n p).runList = p.runList ∧
    (beginClosing n p).verifier = p.verifier ∧ (beginClosing n p).printer = p.printer ∧
    (beginClosing n p).thermal = p.thermal ∧ (beginClosing n p).engine.settings = p.engine.settings ∧
    (beginClosing n p).bays = p.bays ∧ (beginClosing n p).flow = p.flow ∧ (beginClosing n p).links = p.links := by
  simp [beginClosing]

@[simp] theorem sessionAccepted_keeps (n : SessionNum) (p : Part) :
    (sessionAccepted n p).held = p.held ∧ (sessionAccepted n p).strap = p.strap ∧
    (sessionAccepted n p).ring = p.ring ∧ (sessionAccepted n p).slots = p.slots ∧
    (sessionAccepted n p).jobs = p.jobs ∧ (sessionAccepted n p).runList = p.runList ∧
    (sessionAccepted n p).verifier = p.verifier ∧ (sessionAccepted n p).printer = p.printer ∧
    (sessionAccepted n p).thermal = p.thermal ∧ (sessionAccepted n p).engine.settings = p.engine.settings ∧
    (sessionAccepted n p).bays = p.bays ∧ (sessionAccepted n p).flow = p.flow ∧
    (sessionAccepted n p).links = p.links := by
  unfold sessionAccepted
  try dsimp only
  (repeat' split) <;> simp

@[simp] theorem sessionYielded_keeps (n : SessionNum) (p : Part) :
    (sessionYielded n p).held = p.held ∧ (sessionYielded n p).strap = p.strap ∧ (sessionYielded n p).ring = p.ring ∧
    (sessionYielded n p).slots = p.slots ∧ (sessionYielded n p).jobs = p.jobs ∧
    (sessionYielded n p).runList = p.runList ∧ (sessionYielded n p).verifier = p.verifier ∧
    (sessionYielded n p).printer = p.printer ∧ (sessionYielded n p).thermal = p.thermal ∧
    (sessionYielded n p).engine.settings = p.engine.settings ∧ (sessionYielded n p).bus = p.bus ∧
    (sessionYielded n p).bays = p.bays ∧ (sessionYielded n p).flow = p.flow ∧ (sessionYielded n p).links = p.links := by
  simp [sessionYielded]

@[simp] theorem goSent_keeps (n : SessionNum) (p : Part) :
    (goSent n p).held = p.held ∧ (goSent n p).strap = p.strap ∧ (goSent n p).ring = p.ring ∧
    (goSent n p).slots = p.slots ∧ (goSent n p).jobs = p.jobs ∧ (goSent n p).runList = p.runList ∧
    (goSent n p).verifier = p.verifier ∧ (goSent n p).printer = p.printer ∧ (goSent n p).thermal = p.thermal ∧
    (goSent n p).engine.settings = p.engine.settings ∧ (goSent n p).bays = p.bays ∧ (goSent n p).flow = p.flow ∧
    (goSent n p).links = p.links := by
  unfold goSent
  try dsimp only
  (repeat' split) <;> simp

@[simp] theorem laggardResult_keeps (n : SessionNum) (x : Lanes) (p : Part) :
    (laggardResult n x p).held = p.held ∧ (laggardResult n x p).strap = p.strap ∧
    (laggardResult n x p).ring = p.ring ∧ (laggardResult n x p).slots = p.slots ∧
    (laggardResult n x p).jobs = p.jobs ∧ (laggardResult n x p).runList = p.runList ∧
    (laggardResult n x p).verifier = p.verifier ∧ (laggardResult n x p).printer = p.printer ∧
    (laggardResult n x p).thermal = p.thermal ∧ (laggardResult n x p).engine.settings = p.engine.settings ∧
    (laggardResult n x p).flow.held = p.flow.held ∧ (laggardResult n x p).flow.spindles = p.flow.spindles ∧
    (laggardResult n x p).flow.acceptFull = p.flow.acceptFull ∧
    (laggardResult n x p).flow.rejectFull = p.flow.rejectFull ∧ (laggardResult n x p).flow.issued = p.flow.issued ∧
    (laggardResult n x p).links.map LinkEvents.unread = p.links.map LinkEvents.unread ∧
    (laggardResult n x p).links.map LinkEvents.mask = p.links.map LinkEvents.mask := by
  unfold laggardResult
  try dsimp only
  (repeat' split) <;> simp

@[simp] theorem startOne_keeps (p : Part) :
    (startOne p).held = p.held ∧ (startOne p).strap = p.strap ∧ (startOne p).ring = p.ring ∧
    (startOne p).slots = p.slots ∧ (startOne p).jobs = p.jobs ∧ (startOne p).runList = p.runList ∧
    (startOne p).verifier.limits = p.verifier.limits ∧ (startOne p).printer = p.printer ∧
    (startOne p).thermal = p.thermal ∧ (startOne p).engine = p.engine ∧ (startOne p).flow.held = p.flow.held ∧
    (startOne p).flow.spindles = p.flow.spindles ∧ (startOne p).flow.acceptFull = p.flow.acceptFull ∧
    (startOne p).flow.rejectFull = p.flow.rejectFull ∧ (startOne p).flow.issued = p.flow.issued ∧
    (startOne p).links = p.links := by
  unfold startOne
  try dsimp only
  (repeat' split) <;> simp

@[simp] theorem startReadbacks_keeps (p : Part) :
    (startReadbacks p).held = p.held ∧ (startReadbacks p).strap = p.strap ∧ (startReadbacks p).ring = p.ring ∧
    (startReadbacks p).slots = p.slots ∧ (startReadbacks p).jobs = p.jobs ∧ (startReadbacks p).runList = p.runList ∧
    (startReadbacks p).verifier.limits = p.verifier.limits ∧ (startReadbacks p).printer = p.printer ∧
    (startReadbacks p).thermal = p.thermal ∧ (startReadbacks p).engine = p.engine ∧
    (startReadbacks p).flow.held = p.flow.held ∧ (startReadbacks p).flow.spindles = p.flow.spindles ∧
    (startReadbacks p).flow.acceptFull = p.flow.acceptFull ∧
    (startReadbacks p).flow.rejectFull = p.flow.rejectFull ∧ (startReadbacks p).flow.issued = p.flow.issued ∧
    (startReadbacks p).links = p.links := by
  simp [startReadbacks]

@[simp] theorem routePassed_keeps (d : Disc) (p : Part) :
    (routePassed d p).held = p.held ∧ (routePassed d p).strap = p.strap ∧ (routePassed d p).ring = p.ring ∧
    (routePassed d p).slots = p.slots ∧ (routePassed d p).jobs = p.jobs ∧ (routePassed d p).runList = p.runList ∧
    (routePassed d p).verifier = p.verifier ∧ (routePassed d p).printer = p.printer ∧
    (routePassed d p).thermal = p.thermal ∧ (routePassed d p).engine = p.engine ∧ (routePassed d p).bus = p.bus ∧
    (routePassed d p).flow.held = p.flow.held ∧ (routePassed d p).flow.spindles = p.flow.spindles ∧
    (routePassed d p).flow.acceptFull = p.flow.acceptFull ∧ (routePassed d p).flow.rejectFull = p.flow.rejectFull ∧
    (routePassed d p).flow.issued = p.flow.issued ∧
    (routePassed d p).links.map LinkEvents.unread = p.links.map LinkEvents.unread ∧
    (routePassed d p).links.map LinkEvents.mask = p.links.map LinkEvents.mask := by
  unfold routePassed
  try dsimp only
  (repeat' split) <;> simp

@[simp] theorem passDisc_keeps (d : Disc) (f : Disc → Disc) (p : Part) :
    (passDisc d f p).held = p.held ∧ (passDisc d f p).strap = p.strap ∧ (passDisc d f p).ring = p.ring ∧
    (passDisc d f p).slots = p.slots ∧ (passDisc d f p).jobs = p.jobs ∧ (passDisc d f p).runList = p.runList ∧
    (passDisc d f p).verifier = p.verifier ∧ (passDisc d f p).printer = p.printer ∧
    (passDisc d f p).thermal = p.thermal ∧ (passDisc d f p).engine = p.engine ∧ (passDisc d f p).bus = p.bus ∧
    (passDisc d f p).flow.held = p.flow.held ∧ (passDisc d f p).flow.spindles = p.flow.spindles ∧
    (passDisc d f p).flow.acceptFull = p.flow.acceptFull ∧ (passDisc d f p).flow.rejectFull = p.flow.rejectFull ∧
    (passDisc d f p).flow.issued = p.flow.issued ∧
    (passDisc d f p).links.map LinkEvents.unread = p.links.map LinkEvents.unread ∧
    (passDisc d f p).links.map LinkEvents.mask = p.links.map LinkEvents.mask := by
  simp [passDisc]

@[simp] theorem joinVerify_keeps (b : BayNum) (p : Part) :
    (joinVerify b p).held = p.held ∧ (joinVerify b p).strap = p.strap ∧ (joinVerify b p).ring = p.ring ∧
    (joinVerify b p).slots = p.slots ∧ (joinVerify b p).jobs = p.jobs ∧ (joinVerify b p).runList = p.runList ∧
    (joinVerify b p).verifier.limits = p.verifier.limits ∧ (joinVerify b p).verifier.places = p.verifier.places ∧
    (joinVerify b p).printer = p.printer ∧ (joinVerify b p).thermal = p.thermal ∧
    (joinVerify b p).engine = p.engine ∧ (joinVerify b p).bays = p.bays ∧ (joinVerify b p).bus = p.bus ∧
    (joinVerify b p).flow = p.flow ∧ (joinVerify b p).links = p.links := by
  unfold joinVerify
  split <;> simp

@[simp] theorem afterBurned_keeps (b : BayNum) (p : Part) :
    (afterBurned b p).held = p.held ∧ (afterBurned b p).strap = p.strap ∧ (afterBurned b p).ring = p.ring ∧
    (afterBurned b p).slots = p.slots ∧ (afterBurned b p).jobs = p.jobs ∧ (afterBurned b p).runList = p.runList ∧
    (afterBurned b p).verifier.limits = p.verifier.limits ∧ (afterBurned b p).printer = p.printer ∧
    (afterBurned b p).thermal = p.thermal ∧ (afterBurned b p).engine = p.engine ∧
    (afterBurned b p).flow.held = p.flow.held ∧ (afterBurned b p).flow.spindles = p.flow.spindles ∧
    (afterBurned b p).flow.acceptFull = p.flow.acceptFull ∧ (afterBurned b p).flow.rejectFull = p.flow.rejectFull ∧
    (afterBurned b p).flow.issued = p.flow.issued ∧
    (afterBurned b p).links.map LinkEvents.unread = p.links.map LinkEvents.unread ∧
    (afterBurned b p).links.map LinkEvents.mask = p.links.map LinkEvents.mask := by
  unfold afterBurned
  try dsimp only
  (repeat' split) <;> simp

@[simp] theorem memberBurned_keeps (n : SessionNum) (b : BayNum) (k : Nat) (p : Part) :
    (memberBurned n b k p).held = p.held ∧ (memberBurned n b k p).strap = p.strap ∧
    (memberBurned n b k p).ring = p.ring ∧ (memberBurned n b k p).slots = p.slots ∧
    (memberBurned n b k p).jobs = p.jobs ∧ (memberBurned n b k p).runList = p.runList ∧
    (memberBurned n b k p).verifier.limits = p.verifier.limits ∧ (memberBurned n b k p).printer = p.printer ∧
    (memberBurned n b k p).thermal = p.thermal ∧ (memberBurned n b k p).engine.settings = p.engine.settings ∧
    (memberBurned n b k p).flow.held = p.flow.held ∧ (memberBurned n b k p).flow.spindles = p.flow.spindles ∧
    (memberBurned n b k p).flow.acceptFull = p.flow.acceptFull ∧
    (memberBurned n b k p).flow.rejectFull = p.flow.rejectFull ∧
    (memberBurned n b k p).flow.issued = p.flow.issued ∧
    (memberBurned n b k p).links.map LinkEvents.unread = p.links.map LinkEvents.unread ∧
    (memberBurned n b k p).links.map LinkEvents.mask = p.links.map LinkEvents.mask := by
  unfold memberBurned
  try dsimp only
  (repeat' split) <;> simp

@[simp] theorem engineRecord_keeps (b : BayNum) (r : StatusRecord) (p : Part) :
    (engineRecord b r p).held = p.held ∧ (engineRecord b r p).strap = p.strap ∧ (engineRecord b r p).ring = p.ring ∧
    (engineRecord b r p).slots = p.slots ∧ (engineRecord b r p).jobs = p.jobs ∧
    (engineRecord b r p).runList = p.runList ∧ (engineRecord b r p).verifier.limits = p.verifier.limits ∧
    (engineRecord b r p).printer = p.printer ∧ (engineRecord b r p).thermal = p.thermal ∧
    (engineRecord b r p).engine.settings = p.engine.settings ∧ (engineRecord b r p).flow.held = p.flow.held ∧
    (engineRecord b r p).flow.spindles = p.flow.spindles ∧
    (engineRecord b r p).flow.acceptFull = p.flow.acceptFull ∧
    (engineRecord b r p).flow.rejectFull = p.flow.rejectFull ∧ (engineRecord b r p).flow.issued = p.flow.issued ∧
    (engineRecord b r p).links.map LinkEvents.unread = p.links.map LinkEvents.unread ∧
    (engineRecord b r p).links.map LinkEvents.mask = p.links.map LinkEvents.mask := by
  unfold engineRecord
  try dsimp only
  (repeat' split) <;> simp

@[simp] theorem removeReadback_keeps (k : PlaceNum) (p : Part) :
    (removeReadback k p).held = p.held ∧ (removeReadback k p).strap = p.strap ∧ (removeReadback k p).ring = p.ring ∧
    (removeReadback k p).slots = p.slots ∧ (removeReadback k p).jobs = p.jobs ∧
    (removeReadback k p).runList = p.runList ∧ (removeReadback k p).verifier.limits = p.verifier.limits ∧
    (removeReadback k p).printer = p.printer ∧ (removeReadback k p).thermal = p.thermal ∧
    (removeReadback k p).engine = p.engine ∧ (removeReadback k p).flow.held = p.flow.held ∧
    (removeReadback k p).flow.spindles = p.flow.spindles ∧
    (removeReadback k p).flow.acceptFull = p.flow.acceptFull ∧
    (removeReadback k p).flow.rejectFull = p.flow.rejectFull ∧ (removeReadback k p).flow.issued = p.flow.issued ∧
    (removeReadback k p).links = p.links := by
  simp [removeReadback]

@[simp] theorem failVerify_keeps (id : Nat) (w : RejectReason) (f : Disc → Disc) (p : Part) :
    (failVerify id w f p).held = p.held ∧ (failVerify id w f p).strap = p.strap ∧
    (failVerify id w f p).ring = p.ring ∧ (failVerify id w f p).slots = p.slots ∧
    (failVerify id w f p).jobs = p.jobs ∧ (failVerify id w f p).runList = p.runList ∧
    (failVerify id w f p).verifier = p.verifier ∧ (failVerify id w f p).printer = p.printer ∧
    (failVerify id w f p).thermal = p.thermal ∧ (failVerify id w f p).engine = p.engine ∧
    (failVerify id w f p).bus = p.bus ∧ (failVerify id w f p).flow.held = p.flow.held ∧
    (failVerify id w f p).flow.spindles = p.flow.spindles ∧
    (failVerify id w f p).flow.acceptFull = p.flow.acceptFull ∧
    (failVerify id w f p).flow.rejectFull = p.flow.rejectFull ∧ (failVerify id w f p).flow.issued = p.flow.issued ∧
    (failVerify id w f p).links.map LinkEvents.unread = p.links.map LinkEvents.unread ∧
    (failVerify id w f p).links.map LinkEvents.mask = p.links.map LinkEvents.mask := by
  unfold failVerify
  try dsimp only
  (repeat' split) <;> simp

@[simp] theorem endEarly_keeps (k : PlaceNum) (w : RejectReason) (p : Part) :
    (endEarly k w p).held = p.held ∧ (endEarly k w p).strap = p.strap ∧ (endEarly k w p).ring = p.ring ∧
    (endEarly k w p).slots = p.slots ∧ (endEarly k w p).jobs = p.jobs ∧ (endEarly k w p).runList = p.runList ∧
    (endEarly k w p).verifier.limits = p.verifier.limits ∧ (endEarly k w p).printer = p.printer ∧
    (endEarly k w p).thermal = p.thermal ∧ (endEarly k w p).engine = p.engine ∧
    (endEarly k w p).flow.held = p.flow.held ∧ (endEarly k w p).flow.spindles = p.flow.spindles ∧
    (endEarly k w p).flow.acceptFull = p.flow.acceptFull ∧ (endEarly k w p).flow.rejectFull = p.flow.rejectFull ∧
    (endEarly k w p).flow.issued = p.flow.issued ∧
    (endEarly k w p).links.map LinkEvents.unread = p.links.map LinkEvents.unread ∧
    (endEarly k w p).links.map LinkEvents.mask = p.links.map LinkEvents.mask := by
  unfold endEarly
  try dsimp only
  (repeat' split) <;> simp

@[simp] theorem gradeReadback_keeps (k : PlaceNum) (r : Readback) (p : Part) :
    (gradeReadback k r p).held = p.held ∧ (gradeReadback k r p).strap = p.strap ∧
    (gradeReadback k r p).ring = p.ring ∧ (gradeReadback k r p).slots = p.slots ∧
    (gradeReadback k r p).jobs = p.jobs ∧ (gradeReadback k r p).runList = p.runList ∧
    (gradeReadback k r p).verifier.limits = p.verifier.limits ∧ (gradeReadback k r p).printer = p.printer ∧
    (gradeReadback k r p).thermal = p.thermal ∧ (gradeReadback k r p).engine = p.engine ∧
    (gradeReadback k r p).flow.held = p.flow.held ∧ (gradeReadback k r p).flow.spindles = p.flow.spindles ∧
    (gradeReadback k r p).flow.acceptFull = p.flow.acceptFull ∧
    (gradeReadback k r p).flow.rejectFull = p.flow.rejectFull ∧ (gradeReadback k r p).flow.issued = p.flow.issued ∧
    (gradeReadback k r p).links.map LinkEvents.unread = p.links.map LinkEvents.unread ∧
    (gradeReadback k r p).links.map LinkEvents.mask = p.links.map LinkEvents.mask := by
  unfold gradeReadback
  try dsimp only
  (repeat' split) <;> simp

@[simp] theorem processBlock_keeps (k : PlaceNum) (p : Part) :
    (processBlock k p).held = p.held ∧ (processBlock k p).strap = p.strap ∧ (processBlock k p).ring = p.ring ∧
    (processBlock k p).slots = p.slots ∧ (processBlock k p).jobs = p.jobs ∧ (processBlock k p).runList = p.runList ∧
    (processBlock k p).verifier.limits = p.verifier.limits ∧ (processBlock k p).printer = p.printer ∧
    (processBlock k p).thermal = p.thermal ∧ (processBlock k p).engine = p.engine ∧
    (processBlock k p).flow.held = p.flow.held ∧ (processBlock k p).flow.spindles = p.flow.spindles ∧
    (processBlock k p).flow.acceptFull = p.flow.acceptFull ∧
    (processBlock k p).flow.rejectFull = p.flow.rejectFull ∧ (processBlock k p).flow.issued = p.flow.issued ∧
    (processBlock k p).links.map LinkEvents.unread = p.links.map LinkEvents.unread ∧
    (processBlock k p).links.map LinkEvents.mask = p.links.map LinkEvents.mask := by
  unfold processBlock
  try dsimp only
  (repeat' split) <;> simp

@[simp] theorem handBlock_keeps (k : PlaceNum) (h : HeldBlock) (p : Part) :
    (handBlock k h p).held = p.held ∧ (handBlock k h p).strap = p.strap ∧ (handBlock k h p).ring = p.ring ∧
    (handBlock k h p).slots = p.slots ∧ (handBlock k h p).jobs = p.jobs ∧ (handBlock k h p).runList = p.runList ∧
    (handBlock k h p).verifier.limits = p.verifier.limits ∧ (handBlock k h p).printer = p.printer ∧
    (handBlock k h p).thermal = p.thermal ∧ (handBlock k h p).engine = p.engine ∧ (handBlock k h p).bus = p.bus ∧
    (handBlock k h p).bays = p.bays ∧ (handBlock k h p).flow = p.flow ∧ (handBlock k h p).links = p.links := by
  unfold handBlock
  try dsimp only
  (repeat' split) <;> simp

@[simp] theorem readbackSent_keeps (k : PlaceNum) (p : Part) :
    (readbackSent k p).held = p.held ∧ (readbackSent k p).strap = p.strap ∧ (readbackSent k p).ring = p.ring ∧
    (readbackSent k p).slots = p.slots ∧ (readbackSent k p).jobs = p.jobs ∧ (readbackSent k p).runList = p.runList ∧
    (readbackSent k p).verifier.limits = p.verifier.limits ∧ (readbackSent k p).printer = p.printer ∧
    (readbackSent k p).thermal = p.thermal ∧ (readbackSent k p).engine = p.engine ∧
    (readbackSent k p).bays = p.bays ∧ (readbackSent k p).flow = p.flow ∧ (readbackSent k p).links = p.links := by
  unfold readbackSent
  try dsimp only
  (repeat' split) <;> simp

@[simp] theorem pausing_keeps (f : Printer → Printer) (p : Part) :
    (pausing f p).held = p.held ∧ (pausing f p).strap = p.strap ∧ (pausing f p).ring = p.ring ∧
    (pausing f p).slots = p.slots ∧ (pausing f p).jobs = p.jobs ∧ (pausing f p).runList = p.runList ∧
    (pausing f p).verifier = p.verifier ∧ (pausing f p).thermal = p.thermal ∧ (pausing f p).engine = p.engine ∧
    (pausing f p).bus = p.bus ∧ (pausing f p).bays = p.bays ∧ (pausing f p).flow = p.flow ∧
    (pausing f p).links.map LinkEvents.unread = p.links.map LinkEvents.unread ∧
    (pausing f p).links.map LinkEvents.mask = p.links.map LinkEvents.mask := by
  simp [pausing]

/-- What a pause writes. -/
@[simp] theorem pausing_printer (f : Printer → Printer) (p : Part) : (pausing f p).printer = f p.printer := rfl

@[simp] theorem startLabel_keeps (d : Disc) (p : Part) :
    (startLabel d p).held = p.held ∧ (startLabel d p).strap = p.strap ∧ (startLabel d p).ring = p.ring ∧
    (startLabel d p).slots = p.slots ∧ (startLabel d p).jobs = p.jobs ∧ (startLabel d p).runList = p.runList ∧
    (startLabel d p).verifier = p.verifier ∧ (startLabel d p).printer.settings = p.printer.settings ∧
    (startLabel d p).printer.strobe = p.printer.strobe ∧ (startLabel d p).thermal = p.thermal ∧
    (startLabel d p).engine = p.engine ∧ (startLabel d p).bus = p.bus ∧ (startLabel d p).bays = p.bays ∧
    (startLabel d p).flow = p.flow ∧ (startLabel d p).links = p.links := by
  simp [startLabel]

@[simp] theorem notPrinted_keeps (id : Nat) (p : Part) :
    (notPrinted id p).held = p.held ∧ (notPrinted id p).strap = p.strap ∧ (notPrinted id p).ring = p.ring ∧
    (notPrinted id p).slots = p.slots ∧ (notPrinted id p).jobs = p.jobs ∧ (notPrinted id p).runList = p.runList ∧
    (notPrinted id p).verifier = p.verifier ∧ (notPrinted id p).printer.settings = p.printer.settings ∧
    (notPrinted id p).printer.strobe = p.printer.strobe ∧ (notPrinted id p).thermal = p.thermal ∧
    (notPrinted id p).engine = p.engine ∧ (notPrinted id p).bus = p.bus ∧ (notPrinted id p).bays = p.bays ∧
    (notPrinted id p).flow = p.flow ∧ (notPrinted id p).links = p.links := by
  simp [notPrinted]

@[simp] theorem failPrinting_keeps (p : Part) :
    (failPrinting p).held = p.held ∧ (failPrinting p).strap = p.strap ∧ (failPrinting p).ring = p.ring ∧
    (failPrinting p).slots = p.slots ∧ (failPrinting p).jobs = p.jobs ∧ (failPrinting p).runList = p.runList ∧
    (failPrinting p).verifier = p.verifier ∧ (failPrinting p).printer = p.printer ∧
    (failPrinting p).thermal = p.thermal ∧ (failPrinting p).engine = p.engine ∧ (failPrinting p).bus = p.bus ∧
    (failPrinting p).flow.held = p.flow.held ∧ (failPrinting p).flow.spindles = p.flow.spindles ∧
    (failPrinting p).flow.acceptFull = p.flow.acceptFull ∧ (failPrinting p).flow.rejectFull = p.flow.rejectFull ∧
    (failPrinting p).flow.issued = p.flow.issued ∧
    (failPrinting p).links.map LinkEvents.unread = p.links.map LinkEvents.unread ∧
    (failPrinting p).links.map LinkEvents.mask = p.links.map LinkEvents.mask := by
  unfold failPrinting
  try dsimp only
  (repeat' split) <;> simp

@[simp] theorem abortLabel_keeps (st : PrinterState) (p : Part) :
    (abortLabel st p).held = p.held ∧ (abortLabel st p).strap = p.strap ∧ (abortLabel st p).ring = p.ring ∧
    (abortLabel st p).slots = p.slots ∧ (abortLabel st p).jobs = p.jobs ∧ (abortLabel st p).runList = p.runList ∧
    (abortLabel st p).verifier = p.verifier ∧ (abortLabel st p).printer.settings = p.printer.settings ∧
    (abortLabel st p).printer.strobe = p.printer.strobe ∧ (abortLabel st p).thermal = p.thermal ∧
    (abortLabel st p).engine = p.engine ∧ (abortLabel st p).bus = p.bus ∧
    (abortLabel st p).flow.held = p.flow.held ∧ (abortLabel st p).flow.spindles = p.flow.spindles ∧
    (abortLabel st p).flow.acceptFull = p.flow.acceptFull ∧ (abortLabel st p).flow.rejectFull = p.flow.rejectFull ∧
    (abortLabel st p).flow.issued = p.flow.issued ∧
    (abortLabel st p).links.map LinkEvents.unread = p.links.map LinkEvents.unread ∧
    (abortLabel st p).links.map LinkEvents.mask = p.links.map LinkEvents.mask := by
  unfold abortLabel
  try dsimp only
  (repeat' split) <;> simp

@[simp] theorem finishLabel_keeps (p : Part) :
    (finishLabel p).held = p.held ∧ (finishLabel p).strap = p.strap ∧ (finishLabel p).ring = p.ring ∧
    (finishLabel p).slots = p.slots ∧ (finishLabel p).jobs = p.jobs ∧ (finishLabel p).runList = p.runList ∧
    (finishLabel p).verifier = p.verifier ∧ (finishLabel p).printer.settings = p.printer.settings ∧
    (finishLabel p).printer.strobe = p.printer.strobe ∧ (finishLabel p).thermal = p.thermal ∧
    (finishLabel p).engine = p.engine ∧ (finishLabel p).bus = p.bus ∧ (finishLabel p).flow.held = p.flow.held ∧
    (finishLabel p).flow.spindles = p.flow.spindles ∧ (finishLabel p).flow.acceptFull = p.flow.acceptFull ∧
    (finishLabel p).flow.rejectFull = p.flow.rejectFull ∧ (finishLabel p).flow.issued = p.flow.issued ∧
    (finishLabel p).links.map LinkEvents.unread = p.links.map LinkEvents.unread ∧
    (finishLabel p).links.map LinkEvents.mask = p.links.map LinkEvents.mask := by
  unfold finishLabel
  try dsimp only
  (repeat' split) <;> simp

@[simp] theorem lineOver_keeps (p : Part) :
    (lineOver p).held = p.held ∧ (lineOver p).strap = p.strap ∧ (lineOver p).ring = p.ring ∧
    (lineOver p).slots = p.slots ∧ (lineOver p).jobs = p.jobs ∧ (lineOver p).runList = p.runList ∧
    (lineOver p).verifier = p.verifier ∧ (lineOver p).printer.settings = p.printer.settings ∧
    (lineOver p).printer.strobe = p.printer.strobe ∧ (lineOver p).thermal = p.thermal ∧
    (lineOver p).engine = p.engine ∧ (lineOver p).bus = p.bus ∧ (lineOver p).flow.held = p.flow.held ∧
    (lineOver p).flow.spindles = p.flow.spindles ∧ (lineOver p).flow.acceptFull = p.flow.acceptFull ∧
    (lineOver p).flow.rejectFull = p.flow.rejectFull ∧ (lineOver p).flow.issued = p.flow.issued ∧
    (lineOver p).links.map LinkEvents.unread = p.links.map LinkEvents.unread ∧
    (lineOver p).links.map LinkEvents.mask = p.links.map LinkEvents.mask := by
  unfold lineOver
  try dsimp only
  (repeat' split) <;> simp

@[simp] theorem trayFreed_keeps (p : Part) :
    (trayFreed p).held = p.held ∧ (trayFreed p).strap = p.strap ∧ (trayFreed p).ring = p.ring ∧
    (trayFreed p).slots = p.slots ∧ (trayFreed p).jobs = p.jobs ∧ (trayFreed p).runList = p.runList ∧
    (trayFreed p).verifier = p.verifier ∧ (trayFreed p).printer.settings = p.printer.settings ∧
    (trayFreed p).printer.strobe = p.printer.strobe ∧ (trayFreed p).thermal = p.thermal ∧
    (trayFreed p).engine = p.engine ∧ (trayFreed p).bus = p.bus ∧ (trayFreed p).bays = p.bays ∧
    (trayFreed p).flow = p.flow ∧ (trayFreed p).links.map LinkEvents.unread = p.links.map LinkEvents.unread ∧
    (trayFreed p).links.map LinkEvents.mask = p.links.map LinkEvents.mask := by
  unfold trayFreed
  try dsimp only
  (repeat' split) <;> simp

@[simp] theorem headCooled_keeps (p : Part) :
    (headCooled p).held = p.held ∧ (headCooled p).strap = p.strap ∧ (headCooled p).ring = p.ring ∧
    (headCooled p).slots = p.slots ∧ (headCooled p).jobs = p.jobs ∧ (headCooled p).runList = p.runList ∧
    (headCooled p).verifier = p.verifier ∧ (headCooled p).printer.settings = p.printer.settings ∧
    (headCooled p).printer.strobe = p.printer.strobe ∧ (headCooled p).thermal = p.thermal ∧
    (headCooled p).engine = p.engine ∧ (headCooled p).bus = p.bus ∧ (headCooled p).bays = p.bays ∧
    (headCooled p).flow = p.flow ∧ (headCooled p).links.map LinkEvents.unread = p.links.map LinkEvents.unread ∧
    (headCooled p).links.map LinkEvents.mask = p.links.map LinkEvents.mask := by
  unfold headCooled
  try dsimp only
  (repeat' split) <;> simp

@[simp] theorem headPeriodic_keeps (v : Int) (p : Part) :
    (headPeriodic v p).held = p.held ∧ (headPeriodic v p).strap = p.strap ∧ (headPeriodic v p).ring = p.ring ∧
    (headPeriodic v p).slots = p.slots ∧ (headPeriodic v p).jobs = p.jobs ∧ (headPeriodic v p).runList = p.runList ∧
    (headPeriodic v p).verifier = p.verifier ∧ (headPeriodic v p).printer.settings = p.printer.settings ∧
    (headPeriodic v p).printer.strobe = p.printer.strobe ∧ (headPeriodic v p).thermal.limits = p.thermal.limits ∧
    (headPeriodic v p).engine = p.engine ∧ (headPeriodic v p).bus = p.bus ∧ (headPeriodic v p).bays = p.bays ∧
    (headPeriodic v p).flow = p.flow ∧
    (headPeriodic v p).links.map LinkEvents.unread = p.links.map LinkEvents.unread ∧
    (headPeriodic v p).links.map LinkEvents.mask = p.links.map LinkEvents.mask := by
  unfold headPeriodic
  try dsimp only
  (repeat' split) <;> simp

@[simp] theorem judgeWait_keeps (p : Part) :
    (judgeWait p).held = p.held ∧ (judgeWait p).strap = p.strap ∧ (judgeWait p).ring = p.ring ∧
    (judgeWait p).slots = p.slots ∧ (judgeWait p).jobs = p.jobs ∧ (judgeWait p).runList = p.runList ∧
    (judgeWait p).verifier = p.verifier ∧ (judgeWait p).printer = p.printer ∧ (judgeWait p).thermal = p.thermal ∧
    (judgeWait p).engine = p.engine ∧ (judgeWait p).bus = p.bus ∧ (judgeWait p).bays = p.bays ∧
    (judgeWait p).flow.held = p.flow.held ∧ (judgeWait p).flow.spindles = p.flow.spindles ∧
    (judgeWait p).flow.acceptFull = p.flow.acceptFull ∧ (judgeWait p).flow.rejectFull = p.flow.rejectFull ∧
    (judgeWait p).flow.issued = p.flow.issued ∧
    (judgeWait p).links.map LinkEvents.unread = p.links.map LinkEvents.unread ∧
    (judgeWait p).links.map LinkEvents.mask = p.links.map LinkEvents.mask := by
  unfold judgeWait
  try dsimp only
  (repeat' split) <;> simp

@[simp] theorem judgeGathering_keeps (k : Nat) (p : Part) :
    (judgeGathering k p).held = p.held ∧ (judgeGathering k p).strap = p.strap ∧ (judgeGathering k p).ring = p.ring ∧
    (judgeGathering k p).slots = p.slots ∧ (judgeGathering k p).jobs = p.jobs ∧
    (judgeGathering k p).runList = p.runList ∧ (judgeGathering k p).verifier = p.verifier ∧
    (judgeGathering k p).printer = p.printer ∧ (judgeGathering k p).thermal = p.thermal ∧
    (judgeGathering k p).engine.settings = p.engine.settings ∧ (judgeGathering k p).flow.held = p.flow.held ∧
    (judgeGathering k p).flow.spindles = p.flow.spindles ∧
    (judgeGathering k p).flow.acceptFull = p.flow.acceptFull ∧
    (judgeGathering k p).flow.rejectFull = p.flow.rejectFull ∧ (judgeGathering k p).flow.issued = p.flow.issued ∧
    (judgeGathering k p).links.map LinkEvents.unread = p.links.map LinkEvents.unread ∧
    (judgeGathering k p).links.map LinkEvents.mask = p.links.map LinkEvents.mask := by
  induction k generalizing p with
  | zero => simp [judgeGathering]
  | succ k ih =>
    unfold judgeGathering
    split <;> simp [ih]

@[simp] theorem settle_keeps (p : Part) :
    (settle p).held = p.held ∧ (settle p).strap = p.strap ∧ (settle p).ring = p.ring ∧ (settle p).slots = p.slots ∧
    (settle p).jobs = p.jobs ∧ (settle p).runList = p.runList ∧ (settle p).verifier = p.verifier ∧
    (settle p).printer = p.printer ∧ (settle p).thermal = p.thermal ∧
    (settle p).engine.settings = p.engine.settings ∧ (settle p).flow.held = p.flow.held ∧
    (settle p).flow.spindles = p.flow.spindles ∧ (settle p).flow.acceptFull = p.flow.acceptFull ∧
    (settle p).flow.rejectFull = p.flow.rejectFull ∧ (settle p).flow.issued = p.flow.issued ∧
    (settle p).links.map LinkEvents.unread = p.links.map LinkEvents.unread ∧
    (settle p).links.map LinkEvents.mask = p.links.map LinkEvents.mask := by
  simp [settle]

end Sys2Proof.Machine
end

