-- ==== Sys2Proof/Laws/Links.lean ====
section
/-!
SUPPORT. How a command completes: what a frame with a payload does once its link takes frames, what a step of the part's
own does once the part is out of reset, and how the fields of a payload read back.
-/

namespace Sys2Proof.Machine

/-! ## Completion -/

/-- A frame that ends while its link takes frames comes to what its command makes of it. -/
theorem frameEnds_open {l : Link} {s : State} (h : LinkOpen l s) (k : Result) : frameEnds l s k = k := by
  simp only [frameEnds, h.1, h.2, Bool.false_eq_true, if_false]

/-- What the answer to a frame leaves. -/
theorem answered_with (l : Link) (n : Nat) (s : State) (r : Response) (p : Part) :
    AnsweredWith l n r s (answered l n s r p) := by
  refine ⟨?_, ?_⟩
  · simp only [answered, put_get_self, Port.after]
  · intro m hm
    simp only [answered, put_get_other _ _ _ _ hm]

/-- A command frame whose payload fits a frame completes with what its body makes of the part. -/
theorem linkCommand_completes {i : Link → List Byte → Nat → Instr} {l : Link} {payload : List Byte} {fill : Nat}
    {s : State} {f : Part → Response × Part} {r : Response} {p : Part} (hopen : LinkOpen l s)
    (hlen : payload.length ≤ 240) (hexec : exec (i l payload fill) s = linkCommand l payload fill f s)
    (hbody : f s.part = (r, p)) : Completes i l payload fill s r p := by
  refine ⟨answered l (5 + payload.length + fill) s r p, ?_, ⟨rfl, rfl, fun _ => rfl⟩, answered_with .., rfl⟩
  rw [hexec, linkCommand, frameEnds_open hopen]
  have : ¬ Config.maxPayload < payload.length := by simpa [Config.maxPayload] using hlen
  simp [this, hbody]

/-- A step of the part's own completes with what it makes of the part. -/
theorem event_happens {i : Instr} {s : State} {f : Part → Part} (hheld : s.part.held = false)
    (hexec : exec i s = event f s) : Happens i s (f s.part) :=
  ⟨{ s with part := f s.part }, by simp [hexec, event, hheld], ⟨rfl, rfl, fun _ => rfl⟩, rfl, rfl⟩

/-- The same for a step that samples the pins first. -/
theorem event_happensSampling {i : Instr} {s : State} {pins : Pins} {f : Part → Part} (hheld : s.part.held = false)
    (hexec : exec i s = event f { s with pins := pins }) : HappensSampling i s pins (f s.part) :=
  ⟨{ s with pins := pins, part := f s.part }, by simp [hexec, event, hheld], rfl, rfl, fun _ => rfl, rfl, rfl⟩

/-! ## Fields of a payload -/

/-- A byte of a number below 256 holds that number. -/
theorem byte_toNat {n : Nat} (h : n < 256) : (byte n).toNat = n := by
  simp [byte, Nat.mod_eq_of_lt h]

/-- Two bytes, least significant first, give the number they were made of. -/
theorem num16_le16 {n : Nat} (h : n < 65536) : num16 (byte n) (byte (n / 256)) = n := by
  simp only [num16, byte, BitVec.toNat_ofNat]; omega

/-- Four bytes, least significant first, give the number they were made of. -/
theorem num32_le32 {n : Nat} (h : n < 4294967296) :
    num32 (byte n) (byte (n / 256)) (byte (n / 65536)) (byte (n / 16777216)) = n := by
  simp only [num32, byte, BitVec.toNat_ofNat]; omega

/-- Two bytes give back the two bytes that a number was read from. -/
theorem le16_num16 (b0 b1 : Byte) : le16 (num16 b0 b1) = [b0, b1] := by
  have h0 := b0.isLt
  have h1 := b1.isLt
  simp only [le16, num16, byte, List.cons.injEq, and_true]
  constructor <;> (apply BitVec.eq_of_toNat_eq; simp only [BitVec.toNat_ofNat]; omega)

/-- Four bytes give back the four bytes that a number was read from. -/
theorem le32_num32 (b0 b1 b2 b3 : Byte) : le32 (num32 b0 b1 b2 b3) = [b0, b1, b2, b3] := by
  have h0 := b0.isLt
  have h1 := b1.isLt
  have h2 := b2.isLt
  have h3 := b3.isLt
  simp only [le32, num32, byte, List.cons.injEq, and_true]
  refine ⟨?_, ?_, ?_, ?_⟩ <;> (apply BitVec.eq_of_toNat_eq; simp only [BitVec.toNat_ofNat]; omega)

/-- A number that two bytes give lies below 65,536. -/
theorem num16_lt (b0 b1 : Byte) : num16 b0 b1 < 65536 := by
  have h0 := b0.isLt
  have h1 := b1.isLt
  simp only [num16]; omega

/-- A number that four bytes give lies below 2 to the power 32. -/
theorem num32_lt (b0 b1 b2 b3 : Byte) : num32 b0 b1 b2 b3 < 4294967296 := by
  have h0 := b0.isLt
  have h1 := b1.isLt
  have h2 := b2.isLt
  have h3 := b3.isLt
  simp only [num32]; omega

/-- The byte that numbers a thing names that thing. -/
theorem numbered_byte {n : Nat} (h : n ≤ 256) (i : Fin n) : numbered n (byte i.val) = some i := by
  have hi : (byte i.val).toNat = i.val := byte_toNat (Nat.lt_of_lt_of_le i.isLt h)
  simp [numbered, hi, i.isLt]

/-- A byte too great names nothing. -/
theorem numbered_none {n : Nat} {b : Byte} (h : n ≤ b.toNat) : numbered n b = none := by
  simp [numbered, Nat.not_lt.mpr h]

/-- The disc id of a payload, read back. -/
theorem discIdOf_le16 {id : Nat} (h1 : id ≠ 0) (h2 : id < 65536) :
    discIdOf (byte id) (byte (id / 256)) = some id := by
  simp [discIdOf, num16_le16 h2, h1]

/-- The flag set of a payload, read back. -/
theorem flagsOf_le16 (x : FlagSet) : flagsOf (byte x.toNat) (byte (x.toNat / 256)) = some x := by
  have h : x.toNat < 16384 := x.isLt
  simp [flagsOf, num16_le16 (Nat.lt_trans h (by decide)), h]

end Sys2Proof.Machine
end

