-- ==== Sys2Proof/Laws/Memory.lean ====
section
/-!
SUPPORT. Image memory: the one operation that stores keeps the canonical form, and what one byte reads as after it.
-/

namespace Sys2Proof.Machine

/-- Right after reset image memory lists nothing, which is the canonical form. -/
theorem reset_mem_wf : Memory.wf State.reset.mem := ⟨List.Pairwise.nil, by intro c h; cases h⟩

/-- The cells of a run of bytes, one byte at a time. -/
theorem cellsOf_cons (a : Nat) (b : Byte) (bytes : List Byte) :
    cellsOf a (b :: bytes) = (if b = unlisted then [] else [(a, b)]) ++ cellsOf (a + 1) bytes := by
  by_cases h : b = unlisted <;> simp [cellsOf, h, List.zipIdx_cons]

/-- The cells of a run lie in it, in rising order, and none holds what an unlisted byte reads as. -/
theorem cellsOf_wf (a : Nat) (bytes : List Byte) :
    Memory.wf (cellsOf a bytes) ∧ ∀ c ∈ cellsOf a bytes, a ≤ c.1 ∧ c.1 < a + bytes.length := by
  induction bytes generalizing a with
  | nil => simp [cellsOf, Memory.wf]
  | cons b bytes ih =>
    obtain ⟨⟨sorted, listed⟩, inside⟩ := ih (a + 1)
    have inside' : ∀ c ∈ cellsOf (a + 1) bytes, a < c.1 ∧ c.1 < a + (bytes.length + 1) := fun c hc => by
      have := inside c hc; omega
    rw [cellsOf_cons]
    by_cases h : b = unlisted
    · refine ⟨⟨by simpa [h] using sorted, by simpa [h] using listed⟩, ?_⟩
      intro c hc
      have := inside' c (by simpa [h] using hc)
      simp only [List.length_cons]; omega
    · refine ⟨⟨?_, ?_⟩, ?_⟩
      · simp only [h, if_false, List.singleton_append, List.pairwise_cons]
        exact ⟨fun c hc => (inside' c hc).1, sorted⟩
      · intro c hc
        simp only [h, if_false, List.singleton_append, List.mem_cons] at hc
        rcases hc with rfl | hc
        · exact h
        · exact listed c hc
      · intro c hc
        simp only [h, if_false, List.singleton_append, List.mem_cons] at hc
        simp only [List.length_cons]
        rcases hc with rfl | hc
        · exact ⟨Nat.le_refl a, by omega⟩
        · have := inside' c hc; omega

/-- Storing bytes keeps the canonical form. -/
theorem writeBytes_wf (m : List Host.Cell) (a : Nat) (bytes : List Byte) (h : Memory.wf m) :
    Memory.wf (writeBytes m a bytes) := by
  obtain ⟨sorted, listed⟩ := h
  obtain ⟨⟨csorted, clisted⟩, inside⟩ := cellsOf_wf a bytes
  refine ⟨?_, ?_⟩
  · rw [writeBytes, List.pairwise_append, List.pairwise_append]
    refine ⟨⟨sorted.filter _, csorted, ?_⟩, sorted.filter _, ?_⟩
    · intro c hc d hd
      have h1 := (List.mem_filter.1 hc).2
      have h2 := (inside d hd).1
      simp only [decide_eq_true_eq] at h1; omega
    · intro c hc d hd
      have h2 := (List.mem_filter.1 hd).2
      simp only [decide_eq_true_eq] at h2
      rcases List.mem_append.1 hc with hc | hc
      · have h1 := (List.mem_filter.1 hc).2
        simp only [decide_eq_true_eq] at h1; omega
      · have h1 := (inside c hc).2; omega
  · intro c hc
    rw [writeBytes] at hc
    rcases List.mem_append.1 hc with hc | hc
    · rcases List.mem_append.1 hc with hc | hc
      · exact listed c (List.mem_filter.1 hc).1
      · exact clisted c hc
    · exact listed c (List.mem_filter.1 hc).1

/-- A byte of a list of cells none of which stands at its address. -/
theorem readByte_absent (m : List Host.Cell) (x : Nat) (h : ∀ c ∈ m, c.1 ≠ x) : readByte m x = unlisted := by
  have : m.find? (fun c => c.1 == x) = none := by
    rw [List.find?_eq_none]; intro c hc; simpa using h c hc
  simp [readByte, this]

/-- Cells that do not stand at an address do not change what it reads as. -/
theorem readByte_append_right (m n : List Host.Cell) (x : Nat) (h : ∀ c ∈ m, c.1 ≠ x) :
    readByte (m ++ n) x = readByte n x := by
  have : m.find? (fun c => c.1 == x) = none := by
    rw [List.find?_eq_none]; intro c hc; simpa using h c hc
  simp [readByte, List.find?_append, this]

/-- The same for cells behind. -/
theorem readByte_append_left (m n : List Host.Cell) (x : Nat) (h : ∀ c ∈ n, c.1 ≠ x) :
    readByte (m ++ n) x = readByte m x := by
  have : n.find? (fun c => c.1 == x) = none := by
    rw [List.find?_eq_none]; intro c hc; simpa using h c hc
  simp [readByte, List.find?_append, this]

/-- Leaving out cells at other addresses does not change what an address reads as. -/
theorem readByte_filter (m : List Host.Cell) (x : Nat) (keep : Host.Cell → Bool)
    (h : ∀ c ∈ m, c.1 = x → keep c = true) : readByte (m.filter keep) x = readByte m x := by
  induction m with
  | nil => rfl
  | cons c m ih =>
    have ih := ih fun d hd => h d (List.mem_cons_of_mem c hd)
    by_cases hx : c.1 = x
    · have hk := h c (List.mem_cons_self) hx
      simp [readByte, hk, hx]
    · by_cases hk : keep c = true
      · simp only [List.filter_cons, hk, if_true]
        simpa [readByte, hx] using ih
      · simp only [List.filter_cons, hk]
        simpa [readByte, hx] using ih

/-- What a byte of a run reads as from the cells of the run. -/
theorem readByte_cellsOf (a : Nat) (bytes : List Byte) (i : Nat) (h : i < bytes.length) :
    readByte (cellsOf a bytes) (a + i) = bytes[i] := by
  induction bytes generalizing a i with
  | nil => cases h
  | cons b bytes ih =>
    rw [cellsOf_cons]
    cases i with
    | zero =>
      by_cases hb : b = unlisted
      · have : readByte (cellsOf (a + 1) bytes) a = unlisted := by
          apply readByte_absent
          intro c hc
          have := ((cellsOf_wf (a + 1) bytes).2 c hc).1; omega
        simpa [hb] using this
      · simp [hb, readByte]
    | succ i =>
      have := ih (a + 1) i (by simpa using h)
      rw [readByte_append_right]
      · simpa [Nat.add_assoc, Nat.add_comm 1 i] using this
      · intro c hc
        by_cases hb : b = unlisted
        · simp [hb] at hc
        · simp only [hb, if_false, List.mem_singleton] at hc
          subst hc; simp only; omega

/-- A byte that was stored reads back. -/
theorem readByte_writeBytes_inside (m : List Host.Cell) (a : Nat) (bytes : List Byte) (i : Nat)
    (h : i < bytes.length) : readByte (writeBytes m a bytes) (a + i) = bytes[i] := by
  rw [writeBytes, readByte_append_left, readByte_append_right, readByte_cellsOf _ _ _ h]
  · intro c hc
    have := (List.mem_filter.1 hc).2
    simp only [decide_eq_true_eq] at this; omega
  · intro c hc
    have := (List.mem_filter.1 hc).2
    simp only [decide_eq_true_eq] at this; omega

/-- A byte outside the run stored reads as before. -/
theorem readByte_writeBytes_outside (m : List Host.Cell) (a : Nat) (bytes : List Byte) (x : Nat)
    (h : x < a ∨ a + bytes.length ≤ x) : readByte (writeBytes m a bytes) x = readByte m x := by
  have run : ∀ c ∈ cellsOf a bytes, c.1 ≠ x := fun c hc => by
    have := (cellsOf_wf a bytes).2 c hc; omega
  rcases h with h | h
  · rw [writeBytes, readByte_append_left, readByte_append_left _ _ _ run, readByte_filter]
    · intro c _ hx; simp only [decide_eq_true_eq]; omega
    · intro c hc
      have := (List.mem_filter.1 hc).2
      simp only [decide_eq_true_eq] at this; omega
  · rw [writeBytes, readByte_append_right, readByte_filter]
    · intro c _ hx; simp only [decide_eq_true_eq]; omega
    · intro c hc
      rcases List.mem_append.1 hc with hc | hc
      · have := (List.mem_filter.1 hc).2
        simp only [decide_eq_true_eq] at this; omega
      · exact run c hc

/-- A run of bytes gathered from cells in canonical form is what each byte reads as. -/
theorem spread_eq (n a : Nat) (m : List Host.Cell) (acc : List Byte) (sorted : m.Pairwise fun c d => c.1 < d.1)
    (from_ : ∀ c ∈ m, a ≤ c.1) :
    spread n a m acc = acc.reverse ++ (List.range n).map fun i => readByte m (a + i) := by
  induction n generalizing a m acc with
  | zero => simp [spread]
  | succ n ih =>
    cases m with
    | nil =>
      rw [spread, ih (a + 1) [] _ List.Pairwise.nil (by simp), List.range_succ_eq_map]
      simp [readByte, Function.comp_def]
    | cons c cs =>
      have tail := (List.pairwise_cons.1 sorted)
      rw [spread]
      split
      · next h =>
        rw [ih (a + 1) cs _ tail.2 (fun d hd => by have := tail.1 d hd; omega), List.range_succ_eq_map]
        simp only [List.reverse_cons, List.append_assoc, List.singleton_append, List.map_cons, List.map_map]
        congr 1
        simp only [List.cons.injEq]
        refine ⟨by simp [readByte, h], ?_⟩
        apply List.map_congr_left
        intro i _
        have hne : c.1 ≠ a + (i + 1) := by omega
        simp [readByte, hne, Nat.add_assoc, Nat.add_comm 1 i]
      · next h =>
        have hc := from_ c List.mem_cons_self
        rw [ih (a + 1) (c :: cs) _ sorted (fun d hd => by
          rcases List.mem_cons.1 hd with rfl | hd
          · omega
          · have := tail.1 d hd; omega), List.range_succ_eq_map]
        simp only [List.reverse_cons, List.append_assoc, List.singleton_append, List.map_cons, List.map_map]
        congr 1
        simp only [List.cons.injEq]
        refine ⟨?_, ?_⟩
        · rw [readByte_absent]
          intro d hd
          rcases List.mem_cons.1 hd with rfl | hd
          · omega
          · have := tail.1 d hd; omega
        · apply List.map_congr_left
          intro i _
          simp [Nat.add_assoc, Nat.add_comm 1 i]

/-- A run of bytes read from memory in canonical form is what each byte reads as. -/
theorem readBytes_eq (m : List Host.Cell) (a n : Nat) (h : Memory.wf m) :
    readBytes m a n = (List.range n).map fun i => readByte m (a + i) := by
  rw [readBytes, spread_eq _ _ _ _ (h.1.filter _)]
  · simp only [List.reverse_nil, List.nil_append]
    apply List.map_congr_left
    intro i hi
    have := List.mem_range.1 hi
    apply readByte_filter
    intro c _ hx
    simp only [Bool.and_eq_true, decide_eq_true_eq]; omega
  · intro c hc
    have := (List.mem_filter.1 hc).2
    simp only [Bool.and_eq_true, decide_eq_true_eq] at this; exact this.1

end Sys2Proof.Machine
end

