-- ==== Sys2Proof/Laws/Offline.lean ====
section
/-!
SUPPORT. A bay is OFFLINE exactly while it is not present (R74): each shared operation keeps that.
-/

namespace Sys2Proof.Machine

/-- A state other than OFFLINE is entered by a present bay alone. -/
theorem Bay.enter_offline {st : BayState} {x : Bay} (hs : st ≠ .offline)
    (h : x.state = .offline ↔ x.present = false) : x.enter st = .offline ↔ x.present = false := by
  unfold Bay.enter
  split <;> simp_all

/-- No disc state makes a bay OFFLINE. -/
theorem bayStateOf_ne (st : DiscState) : bayStateOf st ≠ .offline := by cases st <;> simp [bayStateOf]

/-- A bay record may be replaced by one of which the same holds. -/
theorem OfflineExactly.put {v : Vector Bay 10} (h : OfflineExactly v) (b : BayNum) {x : Bay}
    (hx : x.state = .offline ↔ x.present = false) : OfflineExactly (put v b x) := by
  intro c
  simp only [put_get]
  split
  · exact hx
  · exact h c

/-- A bay record may be changed in such a way that the same holds of it after as before. -/
@[simp] theorem modBay_offline (b : BayNum) (f : Bay → Bay) (p : Part) (h : OfflineExactly p.bays)
    (hf : ((f p.bays[b]).state = .offline ↔ (f p.bays[b]).present = false)) : OfflineExactly (modBay b f p).bays := by
  simpa using h.put b hf

@[simp] theorem freeBay_offline (b : BayNum) (p : Part) (h : OfflineExactly p.bays) :
    OfflineExactly (freeBay b p).bays := by
  have hb := Bay.enter_offline (st := .empty) (by simp) (h b)
  unfold freeBay
  try dsimp only
  split
  · exact h.put b hb
  · exact h.put b hb

@[simp] theorem countFailure_offline (b : BayNum) (p : Part) (h : OfflineExactly p.bays) :
    OfflineExactly (countFailure b p).bays := by
  have hb := h b
  unfold countFailure
  split
  · exact h.put b hb
  · exact h.put b hb

@[simp] theorem startHousekeeping_offline (b : BayNum) (p : Part) (h : OfflineExactly p.bays) :
    OfflineExactly (startHousekeeping b p).bays := by
  have hb := h b
  exact modBay_offline b _ p h hb

@[simp] theorem restartHousekeeping_offline (b : BayNum) (p : Part) (h : OfflineExactly p.bays) :
    OfflineExactly (restartHousekeeping b p).bays := by
  have hb := h b
  unfold restartHousekeeping
  split
  · exact modBay_offline b _ p h hb
  · exact startHousekeeping_offline b p h

@[simp] theorem startProbe_offline (b : BayNum) (p : Part) (h : OfflineExactly p.bays) :
    OfflineExactly (startProbe b p).bays := by
  have hb := h b
  exact modBay_offline b _ p h hb

@[simp] theorem takeRecord_offline (b : BayNum) (r : StatusRecord) (p : Part) (h : OfflineExactly p.bays) :
    OfflineExactly (takeRecord b r p).bays := by
  have hq : ∀ q : Part, OfflineExactly q.bays → ∀ f : Bay → Bay, (∀ x, (f x).state = x.state) →
      (∀ x, (f x).present = x.present) → OfflineExactly (modBay b f q).bays := by
    intro q hq f h1 h2
    exact modBay_offline b f q hq (by simpa [h1, h2] using hq b)
  unfold takeRecord
  try dsimp only
  split
  · refine restartHousekeeping_offline b _ ?_
    simp only [sampleBay_keeps]
    exact hq _ h _ (fun _ => rfl) fun _ => rfl
  · refine startHousekeeping_offline b _ ?_
    simp only [sampleBay_keeps]
    refine hq _ ?_ _ (fun _ => rfl) fun _ => rfl
    exact h.put b (by simp)

@[simp] theorem judgeSilence_offline (b : BayNum) (p : Part) (h : OfflineExactly p.bays) :
    OfflineExactly (judgeSilence b p).bays := by
  unfold judgeSilence
  try dsimp only
  split
  · exact startProbe_offline b p h
  · split
    · refine startProbe_offline b _ ?_
      simp only [raise_keeps]
      exact h.put b (by simp)
    · exact restartHousekeeping_offline b p h

@[simp] theorem leavePlace_offline (x : Position) (p : Part) (h : OfflineExactly p.bays) :
    OfflineExactly (leavePlace x p).bays := by
  unfold leavePlace
  split <;> simp [h]

@[simp] theorem followBay_offline (x : Position) (st : DiscState) (p : Part) (h : OfflineExactly p.bays) :
    OfflineExactly (followBay x st p).bays := by
  unfold followBay
  split
  · rename_i b
    exact modBay_offline b _ p h (Bay.enter_offline (bayStateOf_ne st) (h b))
  · exact h

@[simp] theorem enterState_offline (d : Disc) (st : DiscState) (f : Disc → Disc) (p : Part) (h : OfflineExactly p.bays) :
    OfflineExactly (enterState d st f p).bays := by
  simp [enterState, h]

@[simp] theorem markFailed_offline (d : Disc) (w : RejectReason) (p : Part) (h : OfflineExactly p.bays) :
    OfflineExactly (markFailed d w p).bays := by
  simp [markFailed, h]

@[simp] theorem failDisc_offline (d : Disc) (w : RejectReason) (p : Part) (h : OfflineExactly p.bays) :
    OfflineExactly (failDisc d w p).bays := by
  simp [failDisc, h]

@[simp] theorem orphanInBay_offline (b : BayNum) (p : Part) (h : OfflineExactly p.bays) :
    OfflineExactly (orphanInBay b p).bays := by
  unfold orphanInBay
  try dsimp only
  simp only [addOrder_keeps]
  refine modBay_offline b _ _ (by simpa using h) ?_
  exact Bay.enter_offline (by simp) (by simpa using h b)

@[simp] theorem withdraw_offline (o : Order) (p : Part) (h : OfflineExactly p.bays) :
    OfflineExactly (withdraw o p).bays := by
  simp [withdraw, h]

@[simp] theorem withdrawPickOf_offline (j : JobNum) (p : Part) (h : OfflineExactly p.bays) :
    OfflineExactly (withdrawPickOf j p).bays := by
  unfold withdrawPickOf
  try dsimp only
  (repeat' split) <;> simp [h]

@[simp] theorem haltRunning_offline (j : JobNum) (x : Job) (w : HaltReason) (p : Part) (h : OfflineExactly p.bays) :
    OfflineExactly (haltRunning j x w p).bays := by
  simp [haltRunning, h]

@[simp] theorem report_offline (j : Option JobNum) (c : CounterChange) (p : Part) (h : OfflineExactly p.bays) :
    OfflineExactly (report j c p).bays := by
  unfold report
  try dsimp only
  (repeat' split) <;> simp [h]

@[simp] theorem withdrawAndReport_offline (o : Order) (p : Part) (h : OfflineExactly p.bays) :
    OfflineExactly (withdrawAndReport o p).bays := by
  simp [withdrawAndReport, h]

@[simp] theorem judgePick_offline (p : Part) (h : OfflineExactly p.bays) : OfflineExactly (judgePick p).bays := by
  unfold judgePick
  try dsimp only
  split
  · split
    · rename_i b _
      simp only [addOrder_keeps]
      refine modBay_offline b _ _ (by simpa using h) ?_
      exact Bay.enter_offline (by simp) (by simpa using h b)
    · exact h
  · exact h

@[simp] theorem reportDropped_offline (b : BayNum) (w : RejectReason) (p : Part) (h : OfflineExactly p.bays) :
    OfflineExactly (reportDropped b w p).bays := by
  unfold reportDropped
  try dsimp only
  (repeat' split) <;> simp [h]

@[simp] theorem dropMember_offline (n : SessionNum) (b : BayNum) (w : RejectReason) (c : Bool) (p : Part) (h : OfflineExactly p.bays) :
    OfflineExactly (dropMember n b w c p).bays := by
  simp [dropMember, h]

@[simp] theorem dropMembers_offline (n : SessionNum) (w : RejectReason) (c : Bool) (bs : List BayNum) (p : Part) (h : OfflineExactly p.bays) :
    OfflineExactly (dropMembers n w c bs p).bays := by
  induction bs generalizing p with
  | nil => exact h
  | cons b bs ih => exact ih _ (dropMember_offline n b w c p h)

@[simp] theorem burnMembers_offline (n : SessionNum) (bs : List BayNum) (p : Part) (h : OfflineExactly p.bays) :
    OfflineExactly (burnMembers n bs p).bays := by
  induction bs generalizing p with
  | nil => exact h
  | cons b bs ih =>
    refine ih _ ?_
    (repeat' split) <;> simp [h]

@[simp] theorem leaveGathering_offline (n : SessionNum) (p : Part) (h : OfflineExactly p.bays) :
    OfflineExactly (leaveGathering n p).bays := by
  unfold leaveGathering
  try dsimp only
  (repeat' split) <;> simp [h]

@[simp] theorem judgeFull_offline (n : SessionNum) (p : Part) (h : OfflineExactly p.bays) :
    OfflineExactly (judgeFull n p).bays := by
  unfold judgeFull
  try dsimp only
  (repeat' split) <;> simp [h]

@[simp] theorem placeWaiting_offline (k : Nat) (p : Part) (h : OfflineExactly p.bays) :
    OfflineExactly (placeWaiting k p).bays := by
  induction k generalizing p with
  | zero => exact h
  | succ k ih =>
    unfold placeWaiting
    try dsimp only
    split
    · exact h
    · split
      · exact h
      · rename_i q hq
        have hb : OfflineExactly q.bays := by
          simp only [Option.bind_eq_some_iff] at hq
          obtain ⟨j, -, hq⟩ := hq
          have := placeIn_keeps hq
          simp [this, h]
        refine ih _ ?_
        split <;> simp [hb]

@[simp] theorem reap_offline (n : SessionNum) (p : Part) (h : OfflineExactly p.bays) :
    OfflineExactly (reap n p).bays := by
  unfold reap
  try dsimp only
  (repeat' split) <;> simp [h]

@[simp] theorem leaveAndReap_offline (n : SessionNum) (p : Part) (h : OfflineExactly p.bays) :
    OfflineExactly (leaveAndReap n p).bays := by
  unfold leaveAndReap
  try dsimp only
  (repeat' split) <;> simp [h]

@[simp] theorem placeLoaded_offline (b : BayNum) (j : JobNum) (p : Part) (h : OfflineExactly p.bays) :
    OfflineExactly (placeLoaded b j p).bays := by
  unfold placeLoaded
  split
  · exact h
  · split
    · rename_i q hq
      have hb : OfflineExactly q.bays := by
        have := placeIn_keeps hq
        simp [this, h]
      try dsimp only
      split <;> simp [hb]
    · exact h

@[simp] theorem laggardResult_offline (n : SessionNum) (x : Lanes) (p : Part) (h : OfflineExactly p.bays) :
    OfflineExactly (laggardResult n x p).bays := by
  unfold laggardResult
  try dsimp only
  (repeat' split) <;> simp [h]

@[simp] theorem startOne_offline (p : Part) (h : OfflineExactly p.bays) : OfflineExactly (startOne p).bays := by
  unfold startOne
  try dsimp only
  (repeat' split) <;> simp [h]

@[simp] theorem startReadbacks_offline (p : Part) (h : OfflineExactly p.bays) :
    OfflineExactly (startReadbacks p).bays := by
  simp [startReadbacks, h]

@[simp] theorem routePassed_offline (d : Disc) (p : Part) (h : OfflineExactly p.bays) :
    OfflineExactly (routePassed d p).bays := by
  unfold routePassed
  try dsimp only
  (repeat' split) <;> simp [h]

@[simp] theorem passDisc_offline (d : Disc) (f : Disc → Disc) (p : Part) (h : OfflineExactly p.bays) :
    OfflineExactly (passDisc d f p).bays := by
  simp [passDisc, h]

@[simp] theorem afterBurned_offline (b : BayNum) (p : Part) (h : OfflineExactly p.bays) :
    OfflineExactly (afterBurned b p).bays := by
  unfold afterBurned
  try dsimp only
  (repeat' split) <;> simp [h]

@[simp] theorem memberBurned_offline (n : SessionNum) (b : BayNum) (k : Nat) (p : Part) (h : OfflineExactly p.bays) :
    OfflineExactly (memberBurned n b k p).bays := by
  unfold memberBurned
  refine reap_offline n _ ?_
  have hr := removeMember_keeps n b p
  split
  · split
    · refine afterBurned_offline b _ ?_
      have hq : ∀ q : Part, OfflineExactly q.bays → OfflineExactly (modBay b (fun x => { x with failures := 0 }) q).bays :=
        fun q hq => hq.put b (hq b)
      exact hq _ (by simp [h])
    · simp [h]
  · simp [h]

@[simp] theorem engineRecord_offline (b : BayNum) (r : StatusRecord) (p : Part) (h : OfflineExactly p.bays) :
    OfflineExactly (engineRecord b r p).bays := by
  unfold engineRecord
  try dsimp only
  (repeat' split) <;> simp [h]

@[simp] theorem removeReadback_offline (k : PlaceNum) (p : Part) (h : OfflineExactly p.bays) :
    OfflineExactly (removeReadback k p).bays := by
  simp [removeReadback, h]

@[simp] theorem failVerify_offline (id : Nat) (w : RejectReason) (f : Disc → Disc) (p : Part) (h : OfflineExactly p.bays) :
    OfflineExactly (failVerify id w f p).bays := by
  unfold failVerify
  try dsimp only
  (repeat' split) <;> simp [h]

@[simp] theorem endEarly_offline (k : PlaceNum) (w : RejectReason) (p : Part) (h : OfflineExactly p.bays) :
    OfflineExactly (endEarly k w p).bays := by
  unfold endEarly
  try dsimp only
  (repeat' split) <;> simp [h]

@[simp] theorem gradeReadback_offline (k : PlaceNum) (r : Readback) (p : Part) (h : OfflineExactly p.bays) :
    OfflineExactly (gradeReadback k r p).bays := by
  unfold gradeReadback
  try dsimp only
  (repeat' split) <;> simp [h]

@[simp] theorem processBlock_offline (k : PlaceNum) (p : Part) (h : OfflineExactly p.bays) :
    OfflineExactly (processBlock k p).bays := by
  unfold processBlock
  try dsimp only
  (repeat' split) <;> simp [h]

@[simp] theorem failPrinting_offline (p : Part) (h : OfflineExactly p.bays) :
    OfflineExactly (failPrinting p).bays := by
  unfold failPrinting
  try dsimp only
  (repeat' split) <;> simp [h]

@[simp] theorem abortLabel_offline (st : PrinterState) (p : Part) (h : OfflineExactly p.bays) :
    OfflineExactly (abortLabel st p).bays := by
  unfold abortLabel
  try dsimp only
  (repeat' split) <;> simp [h]

@[simp] theorem finishLabel_offline (p : Part) (h : OfflineExactly p.bays) : OfflineExactly (finishLabel p).bays := by
  unfold finishLabel
  try dsimp only
  (repeat' split) <;> simp [h]

@[simp] theorem lineOver_offline (p : Part) (h : OfflineExactly p.bays) : OfflineExactly (lineOver p).bays := by
  unfold lineOver
  try dsimp only
  (repeat' split) <;> simp [h]

@[simp] theorem judgeGathering_offline (k : Nat) (p : Part) (h : OfflineExactly p.bays) :
    OfflineExactly (judgeGathering k p).bays := by
  induction k generalizing p with
  | zero => exact h
  | succ k ih =>
    unfold judgeGathering
    split
    · exact h
    · exact ih _ (leaveAndReap_offline _ p h)

@[simp] theorem settle_offline (p : Part) (h : OfflineExactly p.bays) : OfflineExactly (settle p).bays := by
  simp [settle, h]

end Sys2Proof.Machine
end

