-- ==== Sys2Proof/Laws/Ring.lean ====
section
/-!
SUPPORT. The grant ring holds no session twice (R106): each shared operation keeps that.
-/

namespace Sys2Proof.Machine

/-- A ring without repeats holds at most the 4 broadcast and the 2 readback sessions (R106). -/
theorem RingOnce.of_nodup {r : List RingEntry} (h : r.Nodup) : RingOnce r := by
  refine ⟨h, ?_⟩
  let f : RingEntry → Fin 4 ⊕ Fin 2 := fun
    | .broadcast n => .inl n
    | .readback k => .inr k
  have hf : Function.Injective f := by
    intro x y hxy
    cases x <;> cases y <;> simp_all [f]
  simpa using (h.map hf).length_le_card

@[simp] theorem ask_ring (i : Item) (p : Part) : (ask i p).bus.ring = p.bus.ring := by
  unfold ask
  try dsimp only
  (repeat' split) <;> simp

@[simp] theorem address_ring (a : Addressing) (p : Part) : (address a p).bus.ring = p.bus.ring := by
  rfl

@[simp] theorem nextItem_ring (is : List Item) (p : Part) : (nextItem is p).bus.ring = p.bus.ring := by
  induction is generalizing p with
  | nil => rfl
  | cons i is ih =>
    unfold nextItem
    split
    · exact ih p
    · split <;> simp [address]

@[simp] theorem itemOff_ring (p : Part) : (itemOff p).bus.ring = p.bus.ring := by
  rfl

@[simp] theorem goOn_ring (p : Part) : (goOn p).bus.ring = p.bus.ring := by
  simp [goOn]

@[simp] theorem judgePoll_ring (a : Bool) (p : Part) : (judgePoll a p).bus.ring = p.bus.ring := by
  unfold judgePoll
  try dsimp only
  (repeat' split) <;> simp

@[simp] theorem endFruitless_ring (e : RingEntry) (p : Part) : (endFruitless e p).bus.ring = p.bus.ring := by
  unfold endFruitless
  try dsimp only
  (repeat' split) <;> simp

@[simp] theorem endMoved_ring (p : Part) : (endMoved p).bus.ring = p.bus.ring := by
  rfl

@[simp] theorem askClear_ring (w : Bool) (b : BayNum) (p : Part) : (askClear w b p).bus.ring = p.bus.ring := by
  unfold askClear
  try dsimp only
  (repeat' split) <;> simp

@[simp] theorem enterRing_ringOnce (e : RingEntry) (p : Part) (h : RingOnce p.bus.ring) :
    RingOnce (enterRing e p).bus.ring := by
  refine RingOnce.of_nodup ?_
  unfold enterRing
  dsimp only
  split
  · exact h.1
  · rename_i hc
    refine List.nodup_append.2 ⟨h.1, by simp, ?_⟩
    intro x hx y hy hxy
    simp only [List.mem_singleton] at hy
    subst hy hxy
    simp_all

@[simp] theorem leaveRing_ringOnce (e : RingEntry) (p : Part) (h : RingOnce p.bus.ring) :
    RingOnce (leaveRing e p).bus.ring := by
  exact RingOnce.of_nodup (h.1.filter _)

@[simp] theorem busForgetSession_ringOnce (n : SessionNum) (p : Part) (h : RingOnce p.bus.ring) :
    RingOnce (busForgetSession n p).bus.ring := by
  simp [busForgetSession, h]

@[simp] theorem busForgetPlace_ringOnce (k : PlaceNum) (p : Part) (h : RingOnce p.bus.ring) :
    RingOnce (busForgetPlace k p).bus.ring := by
  simp [busForgetPlace, h]

@[simp] theorem dropMember_ringOnce (n : SessionNum) (b : BayNum) (w : RejectReason) (c : Bool) (p : Part) (h : RingOnce p.bus.ring) :
    RingOnce (dropMember n b w c p).bus.ring := by
  simp [dropMember, h]

@[simp] theorem dropMembers_ringOnce (n : SessionNum) (w : RejectReason) (c : Bool) (bs : List BayNum) (p : Part) (h : RingOnce p.bus.ring) :
    RingOnce (dropMembers n w c bs p).bus.ring := by
  induction bs generalizing p with
  | nil => exact h
  | cons b bs ih => exact ih _ (dropMember_ringOnce n b w c p h)

@[simp] theorem endSession_ringOnce (n : SessionNum) (p : Part) (h : RingOnce p.bus.ring) :
    RingOnce (endSession n p).bus.ring := by
  simp [endSession, h]

@[simp] theorem leaveGathering_ringOnce (n : SessionNum) (p : Part) (h : RingOnce p.bus.ring) :
    RingOnce (leaveGathering n p).bus.ring := by
  unfold leaveGathering
  try dsimp only
  (repeat' split) <;> simp [h]

@[simp] theorem judgeFull_ringOnce (n : SessionNum) (p : Part) (h : RingOnce p.bus.ring) :
    RingOnce (judgeFull n p).bus.ring := by
  unfold judgeFull
  try dsimp only
  (repeat' split) <;> simp [h]

@[simp] theorem placeWaiting_ringOnce (k : Nat) (p : Part) (h : RingOnce p.bus.ring) :
    RingOnce (placeWaiting k p).bus.ring := by
  induction k generalizing p with
  | zero => exact h
  | succ k ih =>
    unfold placeWaiting
    try dsimp only
    split
    · exact h
    · split
      · exact h
      · rename_i q hq
        have hb : RingOnce q.bus.ring := by
          simp only [Option.bind_eq_some_iff] at hq
          obtain ⟨j, -, hq⟩ := hq
          have := placeIn_keeps hq
          simp [this, h]
        refine ih _ ?_
        split <;> simp [hb]

@[simp] theorem reap_ringOnce (n : SessionNum) (p : Part) (h : RingOnce p.bus.ring) :
    RingOnce (reap n p).bus.ring := by
  unfold reap
  try dsimp only
  (repeat' split) <;> simp [h]

@[simp] theorem leaveAndReap_ringOnce (n : SessionNum) (p : Part) (h : RingOnce p.bus.ring) :
    RingOnce (leaveAndReap n p).bus.ring := by
  unfold leaveAndReap
  try dsimp only
  (repeat' split) <;> simp [h]

@[simp] theorem placeLoaded_ringOnce (b : BayNum) (j : JobNum) (p : Part) (h : RingOnce p.bus.ring) :
    RingOnce (placeLoaded b j p).bus.ring := by
  unfold placeLoaded
  split
  · exact h
  · split
    · rename_i q hq
      have hb : RingOnce q.bus.ring := by
        have := placeIn_keeps hq
        simp [this, h]
      try dsimp only
      split <;> simp [hb]
    · exact h

@[simp] theorem judgePrepared_ringOnce (n : SessionNum) (p : Part) (h : RingOnce p.bus.ring) :
    RingOnce (judgePrepared n p).bus.ring := by
  unfold judgePrepared
  try dsimp only
  (repeat' split) <;> simp [h]

@[simp] theorem beginClosing_ringOnce (n : SessionNum) (p : Part) (h : RingOnce p.bus.ring) :
    RingOnce (beginClosing n p).bus.ring := by
  simp [beginClosing, h]

@[simp] theorem sessionAccepted_ringOnce (n : SessionNum) (p : Part) (h : RingOnce p.bus.ring) :
    RingOnce (sessionAccepted n p).bus.ring := by
  unfold sessionAccepted
  try dsimp only
  (repeat' split) <;> simp [h]

@[simp] theorem goSent_ringOnce (n : SessionNum) (p : Part) (h : RingOnce p.bus.ring) :
    RingOnce (goSent n p).bus.ring := by
  unfold goSent
  try dsimp only
  (repeat' split) <;> simp [h]

@[simp] theorem laggardResult_ringOnce (n : SessionNum) (x : Lanes) (p : Part) (h : RingOnce p.bus.ring) :
    RingOnce (laggardResult n x p).bus.ring := by
  unfold laggardResult
  try dsimp only
  (repeat' split) <;> simp [h]

@[simp] theorem startOne_ringOnce (p : Part) (h : RingOnce p.bus.ring) : RingOnce (startOne p).bus.ring := by
  unfold startOne
  try dsimp only
  (repeat' split) <;> simp [h]

@[simp] theorem startReadbacks_ringOnce (p : Part) (h : RingOnce p.bus.ring) :
    RingOnce (startReadbacks p).bus.ring := by
  simp [startReadbacks, h]

@[simp] theorem afterBurned_ringOnce (b : BayNum) (p : Part) (h : RingOnce p.bus.ring) :
    RingOnce (afterBurned b p).bus.ring := by
  unfold afterBurned
  try dsimp only
  (repeat' split) <;> simp [h]

@[simp] theorem memberBurned_ringOnce (n : SessionNum) (b : BayNum) (k : Nat) (p : Part) (h : RingOnce p.bus.ring) :
    RingOnce (memberBurned n b k p).bus.ring := by
  unfold memberBurned
  try dsimp only
  (repeat' split) <;> simp [h]

@[simp] theorem engineRecord_ringOnce (b : BayNum) (r : StatusRecord) (p : Part) (h : RingOnce p.bus.ring) :
    RingOnce (engineRecord b r p).bus.ring := by
  unfold engineRecord
  (repeat' split) <;> first
    | exact h
    | (refine judgePrepared_ringOnce _ _ ?_; simp [h])
    | simp [h]

@[simp] theorem removeReadback_ringOnce (k : PlaceNum) (p : Part) (h : RingOnce p.bus.ring) :
    RingOnce (removeReadback k p).bus.ring := by
  simp [removeReadback, h]

@[simp] theorem endEarly_ringOnce (k : PlaceNum) (w : RejectReason) (p : Part) (h : RingOnce p.bus.ring) :
    RingOnce (endEarly k w p).bus.ring := by
  unfold endEarly
  try dsimp only
  (repeat' split) <;> simp [h]

@[simp] theorem gradeReadback_ringOnce (k : PlaceNum) (r : Readback) (p : Part) (h : RingOnce p.bus.ring) :
    RingOnce (gradeReadback k r p).bus.ring := by
  unfold gradeReadback
  try dsimp only
  (repeat' split) <;> simp [h]

@[simp] theorem processBlock_ringOnce (k : PlaceNum) (p : Part) (h : RingOnce p.bus.ring) :
    RingOnce (processBlock k p).bus.ring := by
  unfold processBlock
  try dsimp only
  (repeat' split) <;> simp [h]

@[simp] theorem readbackSent_ringOnce (k : PlaceNum) (p : Part) (h : RingOnce p.bus.ring) :
    RingOnce (readbackSent k p).bus.ring := by
  unfold readbackSent
  try dsimp only
  (repeat' split) <;> simp [h]

@[simp] theorem judgeGathering_ringOnce (k : Nat) (p : Part) (h : RingOnce p.bus.ring) :
    RingOnce (judgeGathering k p).bus.ring := by
  induction k generalizing p with
  | zero => exact h
  | succ k ih =>
    unfold judgeGathering
    split
    · exact h
    · exact ih _ (leaveAndReap_ringOnce _ p h)

@[simp] theorem settle_ringOnce (p : Part) (h : RingOnce p.bus.ring) : RingOnce (settle p).bus.ring := by
  simp [settle, h]

end Sys2Proof.Machine
end

