-- ==== Sys2Proof/Laws/Once.lean ====
section
/-!
SUPPORT. No bay stands twice among the members of the sessions and the waiting bays (R113, R117), nor in the verify
queue (R136): each shared operation keeps that.
-/

namespace Sys2Proof.Machine

/-- It is kept where sessions lose members or end and the waiting bays become fewer. -/
theorem BaysOnce.mono {e f : Engine} (h : BaysOnce e)
    (hs : ∀ (n : SessionNum) (y : Session), f.sessions[n] = some y →
      ∃ x, e.sessions[n] = some x ∧ (y.members.map (·.bay)).Sublist (x.members.map (·.bay)))
    (hw : f.waiting.Sublist e.waiting) : BaysOnce f := by
  have hm : ∀ (n : SessionNum) (y : Session), f.sessions[n] = some y →
      ∃ x, e.sessions[n] = some x ∧ ∀ c ∈ y.members, ∃ d ∈ x.members, d.bay = c.bay := by
    intro n y hy
    obtain ⟨x, hx, hsub⟩ := hs n y hy
    refine ⟨x, hx, fun c hc => ?_⟩
    simpa using hsub.subset (List.mem_map_of_mem hc)
  constructor
  · intro n y hy
    obtain ⟨x, hx, hsub⟩ := hs n y hy
    exact (h.members n x hx).sublist hsub
  · intro m n x y hx hy hmn c hc d hd
    obtain ⟨x', hx', hc'⟩ := hm m x hx
    obtain ⟨y', hy', hd'⟩ := hm n y hy
    obtain ⟨c', hcm, hcb⟩ := hc' c hc
    obtain ⟨d', hdm, hdb⟩ := hd' d hd
    have := h.apart m n x' y' hx' hy' hmn c' hcm d' hdm
    rwa [hcb, hdb] at this
  · exact h.waiting.sublist hw
  · intro n y hy c hc hcw
    obtain ⟨x, hx, hc'⟩ := hm n y hy
    obtain ⟨d, hd, hdc⟩ := hc' c hc
    exact h.outside n x hx d hd (hdc ▸ hw.subset hcw)

/-- It is kept where a bay that is no member joins a session, or starts one, and leaves the waiting bays. -/
theorem BaysOnce.join {e : Engine} (h : BaysOnce e) (n : SessionNum) (b : BayNum) (y : Session) (old : List Member)
    (hold : (∃ x, e.sessions[n] = some x ∧ x.members = old) ∨ old = []) (hy : y.members = old ++ [⟨b, false⟩])
    (hb : ∀ (m : SessionNum) (x : Session), e.sessions[m] = some x → ∀ c ∈ x.members, c.bay ≠ b) :
    BaysOnce { e with sessions := put e.sessions n (some y), waiting := e.waiting.filter (· ≠ b) } := by
  have hmem : ∀ c ∈ y.members, (∃ x, e.sessions[n] = some x ∧ c ∈ x.members) ∨ c = ⟨b, false⟩ := by
    intro c hc
    rw [hy, List.mem_append] at hc
    rcases hc with hc | hc
    · rcases hold with ⟨x, hx, rfl⟩ | rfl
      · exact .inl ⟨x, hx, hc⟩
      · simp at hc
    · exact .inr (by simpa using hc)
  have hne : ∀ (m : SessionNum) (x : Session), m ≠ n → e.sessions[m] = some x → ∀ c ∈ x.members, ∀ d ∈ y.members,
      c.bay ≠ d.bay := by
    intro m x hmn hx c hc d hd
    rcases hmem d hd with ⟨z, hz, hdz⟩ | rfl
    · exact h.apart m n x z hx hz hmn c hc d hdz
    · exact hb m x hx c hc
  constructor
  · intro m x hx
    simp only [put_get] at hx
    split at hx
    · cases hx
      rw [hy, List.map_append]
      refine List.nodup_append.2 ⟨?_, by simp, ?_⟩
      · rcases hold with ⟨z, hz, rfl⟩ | rfl
        · exact h.members n z hz
        · simp
      · rcases hold with ⟨z, hz, rfl⟩ | rfl
        · intro c hc d hd hcd
          simp only [List.map_cons, List.map_nil, List.mem_singleton, List.mem_map] at hc hd
          obtain ⟨w, hw, rfl⟩ := hc
          exact hb n z hz w hw (hcd.trans hd)
        · simp
    · exact h.members m x hx
  · intro m k x z hx hz hmk c hc d hd
    simp only [put_get] at hx hz
    split at hx
    · cases hx
      split at hz
      · simp_all
      · exact (hne k z (by simp_all; exact fun hk => hmk hk.symm) hz d hd c hc).symm
    · split at hz
      · cases hz
        exact hne m x (by simp_all) hx c hc d hd
      · exact h.apart m k x z hx hz hmk c hc d hd
  · exact h.waiting.filter _
  · intro m x hx c hc hcw
    simp only [put_get] at hx
    simp only [List.mem_filter] at hcw
    split at hx
    · cases hx
      rcases hmem c hc with ⟨z, hz, hcz⟩ | rfl
      · exact h.outside n z hz c hcz hcw.1
      · simp at hcw
    · exact h.outside m x hx c hc hcw.1

/-- A session that is replaced by one with no other bays. -/
theorem setSession_once (n : SessionNum) (y : Option Session) (p : Part) (h : BaysOnce p.engine)
    (hy : ∀ z, y = some z →
      ∃ x, p.engine.sessions[n] = some x ∧ (z.members.map (·.bay)).Sublist (x.members.map (·.bay))) :
    BaysOnce (setSession n y p).engine := by
  refine h.mono ?_ (List.Sublist.refl _)
  intro m z hz
  simp only [setSession_keeps, put_get] at hz
  split at hz
  · rename_i hmn
    subst hmn
    exact hy z hz
  · exact ⟨z, hz, List.Sublist.refl _⟩

/-- A session that is changed and gains no bay. -/
theorem modSession_once (n : SessionNum) (f : Session → Session) (p : Part) (h : BaysOnce p.engine)
    (hf : ∀ x : Session, ((f x).members.map (·.bay)).Sublist (x.members.map (·.bay))) :
    BaysOnce (modSession n f p).engine := by
  unfold modSession
  split
  · rename_i x hx
    exact setSession_once n _ p h (fun z hz => ⟨x, hx, by cases hz; exact hf x⟩)
  · exact h

/-- The same where the members stay as they are. -/
theorem modSession_same (n : SessionNum) (f : Session → Session) (p : Part) (h : BaysOnce p.engine)
    (hf : ∀ x : Session, (f x).members.map (·.bay) = x.members.map (·.bay)) : BaysOnce (modSession n f p).engine :=
  modSession_once n f p h fun x => hf x ▸ List.Sublist.refl _

@[simp] theorem removeMember_once (n : SessionNum) (b : BayNum) (p : Part) (h : BaysOnce p.engine) :
    BaysOnce (removeMember n b p).engine :=
  modSession_once n _ p h fun _ => List.filter_sublist.map _

@[simp] theorem endSession_once (n : SessionNum) (p : Part) (h : BaysOnce p.engine) :
    BaysOnce (endSession n p).engine :=
  setSession_once n none _ (by simpa using h) (by simp)

/-- Who joins through R116 was no member, and stays in the waiting bays no longer. -/
theorem placeIn_once {p q : Part} {j : JobNum} {b : BayNum} {n : SessionNum} (h : BaysOnce p.engine)
    (hq : placeIn p j b = some (n, q))
    (hb : ∀ (m : SessionNum) (x : Session), p.engine.sessions[m] = some x → ∀ c ∈ x.members, c.bay ≠ b) :
    q.engine.waiting = p.engine.waiting ∧ BaysOnce { q.engine with waiting := p.engine.waiting.filter (· ≠ b) } := by
  unfold placeIn at hq
  split at hq
  · simp only [Option.some.injEq, Prod.mk.injEq] at hq
    obtain ⟨rfl, rfl⟩ := hq
    unfold modSession
    split
    · rename_i x hx
      exact ⟨rfl, h.join _ b _ x.members (.inl ⟨x, hx, rfl⟩) rfl hb⟩
    · exact ⟨rfl, h.mono (fun m y hy => ⟨y, hy, List.Sublist.refl _⟩) List.filter_sublist⟩
  · split at hq
    · simp only [Option.some.injEq, Prod.mk.injEq] at hq
      obtain ⟨rfl, rfl⟩ := hq
      exact ⟨rfl, h.join _ b _ [] (.inr rfl) rfl hb⟩
    · simp at hq

/-- A bay of no session is a member of none. -/
theorem sessionOf_none {p : Part} {b : BayNum} (h : sessionOf p b = none) (m : SessionNum) (x : Session)
    (hx : p.engine.sessions[m] = some x) : ∀ c ∈ x.members, c.bay ≠ b := by
  intro c hc hcb
  unfold sessionOf lowest at h
  have := List.find?_eq_none.1 h m (List.mem_finRange m)
  rw [hx] at this
  simp only [List.any_eq_true, decide_eq_true_eq, not_exists, not_and] at this
  exact this c hc hcb

@[simp] theorem dropMember_once (n : SessionNum) (b : BayNum) (w : RejectReason) (c : Bool) (p : Part) (h : BaysOnce p.engine) :
    BaysOnce (dropMember n b w c p).engine := by
  simp [dropMember, h]

@[simp] theorem dropMembers_once (n : SessionNum) (w : RejectReason) (c : Bool) (bs : List BayNum) (p : Part) (h : BaysOnce p.engine) :
    BaysOnce (dropMembers n w c bs p).engine := by
  induction bs generalizing p with
  | nil => exact h
  | cons b bs ih => exact ih _ (dropMember_once n b w c p h)

@[simp] theorem leaveGathering_once (n : SessionNum) (p : Part) (h : BaysOnce p.engine) :
    BaysOnce (leaveGathering n p).engine := by
  unfold leaveGathering
  split
  · exact h
  · split
    · have hd : ∀ bs, BaysOnce (dropMembers n .calibration false bs
          (modSession n (fun s => { s with gather := none }) p)).engine := fun bs =>
        dropMembers_once _ _ _ _ _ (modSession_same n _ p h fun _ => rfl)
      dsimp only
      split
      · exact hd _
      · split
        · exact endSession_once n _ (hd _)
        · simp only [ask_keeps]
          refine modSession_same n _ _ ?_ fun x => ?_
          · simp only [burnMembers_keeps]
            exact hd _
          · simp [List.map_map, Function.comp_def]
    · exact h

@[simp] theorem judgeFull_once (n : SessionNum) (p : Part) (h : BaysOnce p.engine) :
    BaysOnce (judgeFull n p).engine := by
  unfold judgeFull
  try dsimp only
  (repeat' split) <;> simp [h]

@[simp] theorem placeWaiting_once (k : Nat) (p : Part) (h : BaysOnce p.engine) :
    BaysOnce (placeWaiting k p).engine := by
  induction k generalizing p with
  | zero => exact h
  | succ k ih =>
    unfold placeWaiting
    split
    · exact h
    · rename_i b hb
      split
      · exact h
      · rename_i n q hq
        have ho : BaysOnce { q.engine with waiting := q.engine.waiting.filter (· ≠ b) } := by
          simp only [Option.bind_eq_some_iff] at hq
          obtain ⟨j, -, hq⟩ := hq
          have hm := placeIn_once h hq (fun m x hx c hc hcb =>
            h.outside m x hx c hc (hcb ▸ List.mem_of_find?_eq_some hb))
          rw [hm.1]
          exact hm.2
        dsimp only
        refine ih _ ?_
        split
        · exact leaveGathering_once _ _ (judgeFull_once _ _ ho)
        · exact judgeFull_once _ _ ho

@[simp] theorem reap_once (n : SessionNum) (p : Part) (h : BaysOnce p.engine) : BaysOnce (reap n p).engine := by
  unfold reap
  try dsimp only
  (repeat' split) <;> simp [h]

@[simp] theorem leaveAndReap_once (n : SessionNum) (p : Part) (h : BaysOnce p.engine) :
    BaysOnce (leaveAndReap n p).engine := by
  unfold leaveAndReap
  try dsimp only
  (repeat' split) <;> simp [h]

@[simp] theorem placeLoaded_once (b : BayNum) (j : JobNum) (p : Part) (h : BaysOnce p.engine) :
    BaysOnce (placeLoaded b j p).engine := by
  unfold placeLoaded
  split
  · exact h
  · rename_i hn
    simp only [Bool.or_eq_true, not_or, Bool.not_eq_true, Option.isSome_eq_false_iff, Option.isNone_iff_eq_none] at hn
    have hw : b ∉ p.engine.waiting := by
      intro hb
      simp [hb] at hn
    split
    · rename_i n q hq
      have hm := placeIn_once h hq (sessionOf_none hn.1)
      have ho : BaysOnce q.engine := by
        have hf : p.engine.waiting.filter (· ≠ b) = q.engine.waiting := by
          rw [hm.1, List.filter_eq_self]
          intro c hc
          simp only [ne_eq, decide_eq_true_eq]
          exact fun hcb => hw (hcb ▸ hc)
        have := hm.2
        rw [hf] at this
        exact this
      dsimp only
      split
      · exact placeWaiting_once _ _ (judgeFull_once _ _ ho)
      · exact judgeFull_once _ _ ho
    · refine ⟨h.members, h.apart, ?_, ?_⟩
      · exact List.nodup_append.2 ⟨h.waiting, by simp, by
          intro c hc d hd hcd
          simp only [List.mem_singleton] at hd
          exact hw (hd ▸ hcd ▸ hc)⟩
      · intro m x hx c hc hcw
        simp only [List.mem_append, List.mem_singleton] at hcw
        rcases hcw with hcw | hcw
        · exact h.outside m x hx c hc hcw
        · exact sessionOf_none hn.1 m x hx c hc hcw

@[simp] theorem judgePrepared_once (n : SessionNum) (p : Part) (h : BaysOnce p.engine) :
    BaysOnce (judgePrepared n p).engine := by
  unfold judgePrepared
  split
  · rename_i x hx
    split
    · simp only [enterRing_keeps]
      exact setSession_once n _ p h fun z hz => ⟨x, hx, by cases hz; exact List.Sublist.refl _⟩
    · exact h
  · exact h

@[simp] theorem beginClosing_once (n : SessionNum) (p : Part) (h : BaysOnce p.engine) :
    BaysOnce (beginClosing n p).engine := by
  unfold beginClosing
  simp only [ask_keeps, leaveRing_keeps]
  exact modSession_same n _ p h fun _ => rfl

@[simp] theorem sessionAccepted_once (n : SessionNum) (p : Part) (h : BaysOnce p.engine) :
    BaysOnce (sessionAccepted n p).engine := by
  unfold sessionAccepted
  split
  · exact h
  · rename_i x hx
    have hs : ∀ y : Session, y.members = x.members → BaysOnce (setSession n (some y) p).engine := fun y hy =>
      setSession_once n _ p h fun z hz => ⟨x, hx, by cases hz; rw [hy]⟩
    dsimp only
    split
    · split
      · simp only [ask_keeps]
        exact modSession_same n _ _ (hs _ rfl) fun _ => rfl
      · exact hs _ rfl
    · split
      · exact beginClosing_once n _ (hs _ rfl)
      · exact hs _ rfl
    · exact hs _ rfl

@[simp] theorem sessionYielded_once (n : SessionNum) (p : Part) (h : BaysOnce p.engine) :
    BaysOnce (sessionYielded n p).engine := by
  refine modSession_same n _ p h fun x => ?_
  split <;> rfl

@[simp] theorem goSent_once (n : SessionNum) (p : Part) (h : BaysOnce p.engine) : BaysOnce (goSent n p).engine := by
  unfold goSent
  split
  · rename_i x hx
    split
    · have hs : BaysOnce (setSession n (some { x with state := .streaming }) p).engine :=
        setSession_once n _ p h fun z hz => ⟨x, hx, by cases hz; exact List.Sublist.refl _⟩
      dsimp only
      split
      · exact beginClosing_once n _ hs
      · exact hs
    · exact h
  · exact h

@[simp] theorem laggardResult_once (n : SessionNum) (x : Lanes) (p : Part) (h : BaysOnce p.engine) :
    BaysOnce (laggardResult n x p).engine := by
  unfold laggardResult
  split
  · exact h
  · have hs : BaysOnce (modSession n (fun s => { s with laggardPoll := false }) p).engine :=
      modSession_same n _ p h fun _ => rfl
    dsimp only
    split
    · refine reap_once n _ (modSession_same n _ _ (dropMembers_once _ _ _ _ _ hs) fun y => ?_)
      split <;> rfl
    · exact hs

@[simp] theorem memberBurned_once (n : SessionNum) (b : BayNum) (k : Nat) (p : Part) (h : BaysOnce p.engine) :
    BaysOnce (memberBurned n b k p).engine := by
  unfold memberBurned
  refine reap_once n _ ?_
  have hr := removeMember_once n b p h
  split
  · split
    · simpa using hr
    · exact hr
  · exact hr

@[simp] theorem engineRecord_once (b : BayNum) (r : StatusRecord) (p : Part) (h : BaysOnce p.engine) :
    BaysOnce (engineRecord b r p).engine := by
  unfold engineRecord
  (repeat' split) <;> first
    | exact h
    | (refine judgePrepared_once _ _ (modSession_same _ _ _ h fun x => ?_)
       simp only [List.map_map, Function.comp_def]
       congr 1
       funext m
       split <;> rfl)
    | (refine judgePrepared_once _ _ (reap_once _ _ ?_); simp [h])
    | simp [h]

@[simp] theorem judgeGathering_once (k : Nat) (p : Part) (h : BaysOnce p.engine) :
    BaysOnce (judgeGathering k p).engine := by
  induction k generalizing p with
  | zero => exact h
  | succ k ih =>
    unfold judgeGathering
    split
    · exact h
    · exact ih _ (leaveAndReap_once _ p h)

@[simp] theorem settle_once (p : Part) (h : BaysOnce p.engine) : BaysOnce (settle p).engine := by
  simp [settle, h]

@[simp] theorem startOne_queueOnce (p : Part) (h : p.verifier.queue.Nodup) : (startOne p).verifier.queue.Nodup := by
  unfold startOne
  split
  · rename_i b rest hk hq
    have hn : rest.Nodup := by
      rw [hq] at h
      exact (List.nodup_cons.1 h).2
    dsimp only
    split
    · simpa using hn
    · exact hn
  · exact h

@[simp] theorem startReadbacks_queueOnce (p : Part) (h : p.verifier.queue.Nodup) :
    (startReadbacks p).verifier.queue.Nodup := by
  simp [startReadbacks, h]

@[simp] theorem joinVerify_queueOnce (b : BayNum) (p : Part) (h : p.verifier.queue.Nodup) :
    (joinVerify b p).verifier.queue.Nodup := by
  unfold joinVerify
  split
  · exact h
  · rename_i hb
    refine List.nodup_append.2 ⟨h, by simp, ?_⟩
    intro c hc d hd hcd
    simp only [List.mem_singleton] at hd
    subst hd hcd
    simp_all

@[simp] theorem afterBurned_queueOnce (b : BayNum) (p : Part) (h : p.verifier.queue.Nodup) :
    (afterBurned b p).verifier.queue.Nodup := by
  unfold afterBurned
  try dsimp only
  (repeat' split) <;> simp [h]

@[simp] theorem memberBurned_queueOnce (n : SessionNum) (b : BayNum) (k : Nat) (p : Part) (h : p.verifier.queue.Nodup) :
    (memberBurned n b k p).verifier.queue.Nodup := by
  unfold memberBurned
  try dsimp only
  (repeat' split) <;> simp [h]

@[simp] theorem engineRecord_queueOnce (b : BayNum) (r : StatusRecord) (p : Part) (h : p.verifier.queue.Nodup) :
    (engineRecord b r p).verifier.queue.Nodup := by
  unfold engineRecord
  try dsimp only
  (repeat' split) <;> simp [h]

@[simp] theorem removeReadback_queueOnce (k : PlaceNum) (p : Part) (h : p.verifier.queue.Nodup) :
    (removeReadback k p).verifier.queue.Nodup := by
  simp [removeReadback, h]

@[simp] theorem endEarly_queueOnce (k : PlaceNum) (w : RejectReason) (p : Part) (h : p.verifier.queue.Nodup) :
    (endEarly k w p).verifier.queue.Nodup := by
  unfold endEarly
  try dsimp only
  (repeat' split) <;> simp [h]

@[simp] theorem gradeReadback_queueOnce (k : PlaceNum) (r : Readback) (p : Part) (h : p.verifier.queue.Nodup) :
    (gradeReadback k r p).verifier.queue.Nodup := by
  unfold gradeReadback
  try dsimp only
  (repeat' split) <;> simp [h]

@[simp] theorem processBlock_queueOnce (k : PlaceNum) (p : Part) (h : p.verifier.queue.Nodup) :
    (processBlock k p).verifier.queue.Nodup := by
  unfold processBlock
  try dsimp only
  (repeat' split) <;> simp [h]

@[simp] theorem handBlock_queueOnce (k : PlaceNum) (x : HeldBlock) (p : Part) (h : p.verifier.queue.Nodup) :
    (handBlock k x p).verifier.queue.Nodup := by
  unfold handBlock
  try dsimp only
  (repeat' split) <;> simp [h]

@[simp] theorem readbackSent_queueOnce (k : PlaceNum) (p : Part) (h : p.verifier.queue.Nodup) :
    (readbackSent k p).verifier.queue.Nodup := by
  unfold readbackSent
  try dsimp only
  (repeat' split) <;> simp [h]

end Sys2Proof.Machine
end

