-- ==== Sys2Proof/Laws/Refs.lean ====
section
/-!
SUPPORT. The reference counts (R12, R40): what each operation on jobs and slots does to them.
-/

namespace Sys2Proof.Machine

/-- The reference counts with `g` references taken and not yet named, or given up and not yet given back. -/
def RefsOff (g : SlotNum → Nat) (p : Part) : Prop := ∀ n : SlotNum, SlotCounts p.slots[n] (namingsOf p.jobs n + g n)

/-- Nothing is outstanding where the counts are right. -/
theorem RefsCounted.off {p : Part} (h : RefsCounted p) : RefsOff (fun _ => 0) p := h

/-- The counts are right where nothing is outstanding. -/
theorem RefsOff.counted {p : Part} (h : RefsOff (fun _ => 0) p) : RefsCounted p := h

/-- Only slots and jobs matter. -/
theorem RefsOff.congr {g g' : SlotNum → Nat} {p q : Part} (h : RefsOff g p) (hs : q.slots = p.slots)
    (hj : ∀ n, namingsOf q.jobs n + g' n = namingsOf p.jobs n + g n) : RefsOff g' q := by
  intro n
  rw [hs, hj n]
  exact h n

/-- The same where nothing is outstanding. -/
theorem RefsCounted.congr {p q : Part} (h : RefsCounted p) (hs : q.slots = p.slots) (hj : q.jobs = p.jobs) :
    RefsCounted q := (RefsOff.congr (g' := fun _ => 0) h.off hs fun n => by rw [hj]).counted

/-- The sum over a list of which one entry is replaced. -/
theorem sum_map_set {α : Type} (f : α → Nat) (l : List α) (i : Nat) (h : i < l.length) (x : α) :
    ((l.set i x).map f).sum + f l[i] = (l.map f).sum + f x := by
  induction l generalizing i with
  | nil => simp at h
  | cons a l ih =>
    cases i with
    | zero => simp; omega
    | succ i =>
      have := ih i (by simpa using h)
      simp only [List.set_cons_succ, List.map_cons, List.sum_cons, List.getElem_cons_succ]
      omega

/-- The namings after one job is replaced. -/
theorem namingsOf_put (jobs : Vector (Option Job) 12) (j : JobNum) (x : Option Job) (n : SlotNum) :
    namingsOf (put jobs j x) n + namings n jobs[j] = namingsOf jobs n + namings n x := by
  have := sum_map_set (namings n) jobs.toList j.val (by simp) x
  simpa [namingsOf, put, Vector.toList_set] using this

/-- What the references of a listed job come to at slot `n`. -/
def naming (d : JobDef) (n : SlotNum) : Nat :=
  (if d.discSlot = n then 1 else 0) + if d.labelSlot = some n then 1 else 0

theorem namings_listed {x : Job} (h : x.state.listed = true) (n : SlotNum) : namings n (some x) = naming x.defn n := by
  simp [namings, naming, h]

theorem namings_unlisted {x : Job} (h : x.state.listed = false) (n : SlotNum) : namings n (some x) = 0 := by
  simp [namings, h]

/-- A slot's record may be replaced by one whose count is right. -/
theorem RefsOff.setSlot {g g' : SlotNum → Nat} {p : Part} (h : RefsOff g p) (n : SlotNum) (x : Option Slot)
    (hx : SlotCounts x (namingsOf p.jobs n + g' n)) (hg : ∀ m, m ≠ n → g' m = g m) : RefsOff g' (setSlot n x p) := by
  intro m
  simp only [setSlot_keeps, put_get]
  split
  · rename_i hmn
    exact hmn ▸ hx
  · rename_i hmn
    rw [hg m (Ne.symm hmn)]
    exact h m

/-- A reference is taken on a slot that is neither EMPTY nor FILLING. -/
theorem takeRef_refs {g : SlotNum → Nat} {p : Part} (h : RefsOff g p) (n : SlotNum) (s : Slot)
    (hs : p.slots[n] = some s) (hf : s.state ≠ .filling) :
    RefsOff (fun m => g m + if n = m then 1 else 0) (takeRef n p) := by
  have hn := h n
  simp only [hs, SlotCounts] at hn
  simp only [takeRef, hs]
  refine h.setSlot n _ ?_ fun m hm => by simp [Ne.symm hm]
  exact ⟨by simp only [if_true]; omega, fun hst => absurd hst hf⟩

/-- A reference that is held is given back. -/
theorem dropRef_refs {g : SlotNum → Nat} {p : Part} (n : SlotNum)
    (h : RefsOff (fun m => g m + if n = m then 1 else 0) p) : RefsOff g (dropRef n p) := by
  have hn := h n
  have hg : ∀ m, m ≠ n → g m = g m + if n = m then 1 else 0 := fun m hm => by simp [Ne.symm hm]
  unfold dropRef
  cases hs : p.slots[n] with
  | none => simp [hs, SlotCounts] at hn
  | some s =>
    simp only [hs, SlotCounts, if_true] at hn
    simp only
    split
    · rename_i hr
      simp only [Bool.and_eq_true, decide_eq_true_eq] at hr
      refine (h.setSlot n none ?_ hg).congr (by simp) fun m => by simp
      simp only [SlotCounts]
      omega
    · refine h.setSlot n _ ⟨?_, fun hst => ?_⟩ hg
      · simp only
        omega
      · have := hn.2 hst
        omega

/-- A job gives back all its references. -/
theorem releaseRefs_refs {g : SlotNum → Nat} {p : Part} (x : Job) (h : RefsOff (fun m => g m + naming x.defn m) p) :
    RefsOff g (releaseRefs x p) := by
  unfold releaseRefs
  dsimp only
  split
  · rename_i n hn
    refine dropRef_refs n (dropRef_refs x.defn.discSlot (h.congr rfl fun m => ?_))
    simp only [naming, hn, Option.some.injEq]
    omega
  · rename_i hn
    refine dropRef_refs x.defn.discSlot (h.congr rfl fun m => ?_)
    simp [naming, hn]

/-- A job changes state. -/
theorem setJobState_refs {g g' : SlotNum → Nat} {p : Part} (h : RefsOff g p) (j : JobNum) (x : Job) (st : JobState)
    (w : Option HaltReason)
    (hg : ∀ n, namings n (some { x with state := st, haltReason := w }) + g' n = namings n p.jobs[j] + g n) :
    RefsOff g' (setJobState j x st w p) := by
  refine h.congr (by simp) fun n => ?_
  have := namingsOf_put p.jobs j (some { x with state := st, haltReason := w }) n
  have := hg n
  simp only [setJobState, raise_keeps, setJob_keeps]
  omega

/-- A job changes state within the listed ones, or within the others. -/
theorem setJobState_counted {p : Part} (h : RefsCounted p) (j : JobNum) (x : Job) (st : JobState)
    (w : Option HaltReason) (hx : p.jobs[j] = some x) (hl : st.listed = x.state.listed) :
    RefsCounted (setJobState j x st w p) :=
  (setJobState_refs (g' := fun _ => 0) h.off j x st w fun n => by simp [hx, namings, hl]).counted

@[simp] theorem setJobState_jobs (j : JobNum) (x : Job) (st : JobState) (w : Option HaltReason) (p : Part) :
    (setJobState j x st w p).jobs = put p.jobs j (some { x with state := st, haltReason := w }) := by
  simp [setJobState]

theorem admitOne_refs {p : Part} (h : RefsCounted p) : RefsCounted (admitOne p) := by
  unfold admitOne
  split
  · split
    · rename_i j hj
      split
      · rename_i x hx
        have hq : x.state = .queued := by
          have := List.find?_some hj
          simpa [isQueued, hx] using this
        exact setJobState_counted h j x _ _ hx (by simp [hq, JobState.listed])
      · exact h
    · exact h
  · exact h

theorem admitJobs_refs {p : Part} (h : RefsCounted p) : RefsCounted (admitJobs p) := admitOne_refs (admitOne_refs h)

/-- A listed job finishes. -/
theorem finishJob_refs {p : Part} (h : RefsCounted p) (j : JobNum) (x : Job) (st : JobState)
    (hx : p.jobs[j] = some x) (hl : x.state.listed = true) (hst : st.listed = false) :
    RefsCounted (finishJob j x st p) := by
  unfold finishJob
  refine admitJobs_refs (releaseRefs_refs (g := fun _ => 0) x ?_)
  have hs : RefsOff (naming x.defn) (setJobState j x st none p) := setJobState_refs h.off j x st none fun n => by
    rw [hx, namings_listed hl, namings_unlisted hst]
    omega
  exact hs.congr rfl fun n => by simp

theorem endDrain_refs {p : Part} (h : RefsCounted p) (j : JobNum) : RefsCounted (endDrain j p) := by
  unfold endDrain
  split
  · rename_i x hx
    split
    · split
      · rename_i hst
        exact admitJobs_refs (setJobState_counted h j x _ _ hx (by simp [hst, JobState.listed]))
      · rename_i hst
        exact finishJob_refs h j x _ hx (by simp [hst, JobState.listed]) rfl
      · exact h
    · exact h
  · exact h

theorem haltRunning_refs {p : Part} (h : RefsCounted p) (j : JobNum) (x : Job) (w : HaltReason)
    (hx : p.jobs[j] = some x) (hr : x.state = .running) : RefsCounted (haltRunning j x w p) := by
  unfold haltRunning
  refine endDrain_refs ?_ j
  have hs : RefsCounted (setJobState j x .halting (some w) p) :=
    setJobState_counted h j x _ _ hx (by simp [hr, JobState.listed])
  exact hs.congr (by simp) (by simp)

/-- A job's record changes in its counters only. -/
theorem setJob_counted {p : Part} (h : RefsCounted p) (j : JobNum) (x y : Job) (hx : p.jobs[j] = some x)
    (h1 : y.state = x.state) (h2 : y.defn = x.defn) : RefsCounted (setJob j (some y) p) := by
  refine (RefsOff.congr (g' := fun _ => 0) h.off (by simp) fun n => ?_).counted
  have := namingsOf_put p.jobs j (some y) n
  have hn : namings n (some y) = namings n p.jobs[j] := by simp [hx, namings, h1, h2]
  simp only [setJob_keeps]
  omega

theorem setJob_get (j : JobNum) (y : Option Job) (p : Part) : (setJob j y p).jobs[j] = y := by simp

theorem holdsPlace_listed {st : JobState} (h : st.holdsPlace = true) : st.listed = true := by
  revert h
  cases st <;> simp [JobState.holdsPlace, JobState.listed]

/-- What R31 to R34 make of a job's new counters. -/
def reported (j : JobNum) (y : Job) (c : CounterChange) (p : Part) : Part :=
  if c.accepted != 0 && y.accepted = y.defn.target && y.state.holdsPlace then finishJob j y .done p
  else if c.rejected != 0 && y.state = .running && y.defn.rejectLimit != 0
      && decide (y.defn.rejectLimit ≤ y.rejected) then
    haltRunning j y .rejectLimit p
  else endDrain j p

theorem reported_refs {p : Part} (h : RefsCounted p) (j : JobNum) (y : Job) (c : CounterChange)
    (hy : p.jobs[j] = some y) : RefsCounted (reported j y c p) := by
  unfold reported
  split
  · rename_i hc
    simp only [Bool.and_eq_true] at hc
    exact finishJob_refs h j y _ hy (holdsPlace_listed hc.2) rfl
  · split
    · rename_i hc
      simp only [Bool.and_eq_true, decide_eq_true_eq] at hc
      exact haltRunning_refs h j y _ hy hc.1.1.2
    · exact endDrain_refs h j

theorem report_refs {p : Part} (h : RefsCounted p) (j : Option JobNum) (c : CounterChange) :
    RefsCounted (report j c p) := by
  unfold report
  split
  · exact h
  · rename_i j
    split
    · exact h
    · rename_i x hx
      let y := { x with
        picked := x.picked + c.picked, accepted := x.accepted + c.accepted, rejected := x.rejected + c.rejected }
      exact reported_refs (setJob_counted h j x y hx rfl rfl) j y c (setJob_get j _ p)

theorem withdrawAndReport_refs {p : Part} (h : RefsCounted p) (o : Order) : RefsCounted (withdrawAndReport o p) := by
  unfold withdrawAndReport
  exact report_refs (h.congr (by simp) (by simp)) _ _

end Sys2Proof.Machine
end

