-- ==== Sys2Proof/Tests/Slice0.lean ====
section
/-!
SUPPORT. Tests. First the spec's own figures and worked examples, then the checks of well-formedness, then, for each
obligation with hypotheses, a state and operands that meet them.
-/

namespace Sys2Proof.Tests

open Sys2Proof Sys2Proof.Machine

set_option Elab.async false

/-! ## Check codes and formats -/

/-- The nine digits that the spec's check values are of. -/
def digits : List Byte := [0x31, 0x32, 0x33, 0x34, 0x35, 0x36, 0x37, 0x38, 0x39]

/-- Scope, Check codes: CRC-32 of 123456789. -/
theorem test_crc32_check_value : crc32 digits = 0xCBF43926#32 := by decide +kernel

/-- Scope, Check codes: CRC-16 of 123456789. -/
theorem test_crc16_check_value : crc16 digits = 0x29B1#16 := by decide +kernel

/-- 12.1: temperature words. -/
theorem test_temperature_words : tempWord (-160) = 0x0360 ∧ tempWord 0 = 0 ∧ tempWord 100 = 0x0064 ∧
    tempWord 511 = 0x01FF := by decide +kernel

/-! ## A part that is awake -/

/-- The part out of tower reset, every table empty. -/
def awakePart : Part := { Part.reset with held := false }

/-- The machine with such a part. -/
def awake : State := { State.reset with part := awakePart }

/-- The machine with a given part. -/
def having (p : Part) : State := { State.reset with part := p }

/-- The next state of a step, if there is one. -/
def next : Result → Option State
  | .next t => some t
  | _ => none

/-- The response that a command leaves pending on link 1. -/
def responseOn1 (r : Result) : Option Response := (next r).map fun t => t.ports[1].response

/-- The part after a step. -/
def partOf (r : Result) : Option Part := (next r).map State.part

/-! ## Image store: 1.11 and 1.12 -/

/-- A FILLING slot of a kind, length and first chunk. -/
def filling (k : ImageKind) (length first : Nat) : Option Slot := some (newSlot k length first)

/-- 1.11, steps 1 and 3. -/
theorem test_chunk_counts : chunkCountOf .disc 2295104 = 2242 ∧ blockCountOf .disc 2295104 = 71722 ∧
    chunkCountOf .disc 300000 = 293 ∧ chunkCountOf .label 1440 = 1 ∧ blockCountOf .label 1440 = 4 ∧
    chunkCountOf .disc 12219392 = 11933 ∧ chunkCountOf .disc 2000000 = 1954 := by decide +kernel

/-- 1.11, step 3: slots 0 and 1 are held, and slot 2 is given chunk 2,243. -/
theorem test_image_open_third :
    responseOn1 (exec (.imageOpen 1 (0 :: le32 300000) 0)
      (having { awakePart with
        slots := #v[filling .disc 2295104 0, filling .label 1440 2242, none, none, none, none, none, none] }))
      = some (.done (2 :: le16 2243 ++ le16 293)) := by decide +kernel

/-- 1.11, step 7: 2,203 chunks are free, but no run of 2,000. -/
theorem test_image_open_no_space :
    responseOn1 (exec (.imageOpen 1 (0 :: le32 2048000) 0)
      (having { awakePart with
        slots := #v[filling .disc 12219392 2536, filling .label 1440 2242, filling .disc 300000 2243,
          filling .disc 2000000 0, none, none, none, none] }))
      = some (.refused .noSpace []) := by decide +kernel

/-- 1.12: the last block of a 100 sector image holds 8,192 bytes. 7.11: that of a 2,100 sector image 40,960. -/
theorem test_last_blocks : (newSlot .disc 100 0).blockCount = 4 ∧ (newSlot .disc 100 0).bytesIn 3 = 8192 ∧
    (newSlot .disc 2100 0).blockCount = 66 ∧ (newSlot .disc 2100 0).chunkCount = 3 ∧
    (newSlot .disc 2100 0).bytesIn 65 = 40960 ∧ (newSlot .disc 2100 0).bytesIn 0 = 65536 := by decide +kernel

/-- 1.12: a freeze before the fill is complete. -/
theorem test_image_freeze_too_early :
    responseOn1 (exec (.imageFreeze 1 [0] 0)
      (having { awakePart with
        slots := put awakePart.slots 0 (some { newSlot .disc 100 0 with fill := 2 }) }))
      = some (.refused .sequence [2, 0, 0, 0, 4, 0, 0, 0]) := by decide +kernel

/-- 1.12: of a block at the cursor the image bytes are stored, at their place. -/
theorem test_stored_bytes : readBytes (writeBytes [] (((newSlot .label 1 5)).blockAddress 0) [1, 0, 2]) 10485760 4 =
    [1, 0, 2, 0] := by decide +kernel

/-- R17: the record of an EMPTY slot names its number. -/
theorem test_image_status_empty :
    (responseOn1 (exec (.imageStatus 1 [7] 0) awake)).map (fun r => r.payload.take 1) = some [7] := by
  decide +kernel

/-- R14: a thaw without the strap. -/
theorem test_image_thaw_without_strap :
    responseOn1 (exec (.imageThaw 1 [0] 0) awake) = some (.refused .notService []) := by decide +kernel

/-- R11: a retire of an EMPTY slot. -/
theorem test_image_retire_empty : responseOn1 (exec (.imageRetire 1 [0] 0) awake) = some (.refused .state []) := by
  decide +kernel

/-! ## Jobs -/

/-- A definition in all its fields; media CD. -/
def sampleDefn : JobDef := ⟨0, .cd, 3, 3, 0, .digest, none, 2, none, 0, 20⟩

/-- A job in a state. -/
def job (st : JobState) : Job := ⟨st, sampleDefn, 0, 0, 0, none⟩

/-- A FROZEN disc slot of 100 sectors at a chunk, with references. -/
def frozenDisc (first refs : Nat) : Slot := ⟨.disc, .frozen, 100, 4, first, refs, none, [7#32], some 9#32⟩

/-- A FROZEN label slot of 1,000 lines at a chunk, with references. -/
def frozenLabel (first refs : Nat) : Slot := ⟨.label, .frozen, 1000, 3, first, refs, none, [7#32], some 9#32⟩

/-- 2.12: three jobs, two places; job 2 is QUEUED behind them. -/
def threeJobs : Part := { awakePart with
  slots := put awakePart.slots 0 (some (frozenDisc 0 3))
  jobs := put (put (put awakePart.jobs 0 (some (job .running))) 1 (some (job .running))) 2 (some (job .queued))
  runList := [0, 1, 2] }

/-- 2.12: as job 0 is halted with nothing in flight, job 2 takes its place. -/
theorem test_job_halt_admits_next :
    (partOf (exec (.jobHalt 1 [0] 0) (having threeJobs))).map (fun p => p.jobs[0].map (·.state)) =
        some (some .halted) ∧
    (partOf (exec (.jobHalt 1 [0] 0) (having threeJobs))).map (fun p => p.jobs[2].map (·.state)) =
        some (some .running) := by decide +kernel

/-- 2.12: JOB QUEUE of a third job answers QUEUED. -/
theorem test_job_queue_third :
    responseOn1 (exec (.jobQueue 1 [2] 0)
      (having { threeJobs with
        jobs := put threeJobs.jobs 2 (some (job .draft)), runList := [0, 1] })) = some (.done [1]) := by
  decide +kernel

/-- 2.12: JOB RESUME with both places held answers QUEUED. -/
theorem test_job_resume_waits :
    responseOn1 (exec (.jobResume 1 [2] 0)
      (having { threeJobs with jobs := put threeJobs.jobs 2 (some (job .halted)) })) = some (.done [1]) := by
  decide +kernel

/-- R23: a set size of 11 is clamped to 10. -/
theorem test_job_define_clamps :
    responseOn1 (exec (.jobDefine 1 [0, 0, 3, 0, 11, 0, 0xFF, 0xFF, 0xFF, 0xFF, 0x80, 0xFF, 0xFF] 0) awake) =
      some (.doneClamped [0]) ∧
    (partOf (exec (.jobDefine 1 [0, 0, 3, 0, 11, 0, 0xFF, 0xFF, 0xFF, 0xFF, 0x80, 0xFF, 0xFF] 0) awake)).map
      (fun p => p.jobs[0].map (·.defn)) = some (some { sampleDefn with setSize := 10 }) := by decide +kernel

/-- R36: a CANCEL of a QUEUED job answers CANCELLED. -/
theorem test_job_cancel_queued : responseOn1 (exec (.jobCancel 1 [2] 0) (having threeJobs)) = some (.done [7]) := by
  decide +kernel

/-- R39: a RUNNING job is not removed. -/
theorem test_job_remove_running :
    responseOn1 (exec (.jobRemove 1 [0] 0) (having threeJobs)) = some (.refused .state []) := by decide +kernel

/-! ## Disc flow: 3.13 -/

/-- A bay that takes picks of CD at speed 16. -/
def readyBay : Bay := { Bay.reset with present := true, state := .empty, capability := ⟨16, 16, 16⟩ }

/-- The tower of 3.13 as its first events find it, with job 0 RUNNING. -/
def tower : Part := { awakePart with
  slots := put (put awakePart.slots 0 (some (frozenDisc 0 1))) 1 (some (frozenLabel 1 1))
  jobs := put awakePart.jobs 0 (some { job .running with defn := { sampleDefn with labelSlot := some 1 } })
  runList := [0]
  flow := { awakePart.flow with spindles := #v[some .cd, none] }
  bays := Vector.replicate 10 readyBay
  printer := { awakePart.printer with state := .idle, ribbon := 100000 } }

/-- The tower with its first pick in the queue. -/
def picking : Part := judgePick tower

/-- The tower with its first pick issued. -/
def issued : Part := (partOf (exec (.moveNext 1 [] 0) (having picking))).getD awakePart

/-- 3.13: the first pick is of disc 1, from spindle 0 to bay 0. -/
theorem test_first_pick : picking.flow.queue = [⟨.pick, 1, .spindle 0, .bay 0, 0⟩] ∧
    picking.bays[0].state = .reserved ∧ picking.links[0].flags.getLsbD 4 = true := by decide +kernel

/-- 3.13: MOVE NEXT issues it, and gives it again. -/
theorem test_move_next_issues :
    responseOn1 (exec (.moveNext 1 [] 0) (having picking)) = some (.done (moveBytes 1 picking.flow.queue.head? false)) ∧
    responseOn1 (exec (.moveNext 1 [] 0) (having issued)) = some (.done (moveBytes 2 picking.flow.queue.head? false)) :=
  by decide +kernel

/-- 3.13: MOVE DONE 1 PICK loads disc 1, and the pick of disc 2 into bay 1 follows. -/
theorem test_move_done_pick :
    (partOf (exec (.moveDone 1 [1, 0, 0] 0) (having issued))).map (fun p =>
      (p.flow.discs.map (fun d => (d.id, d.state)), p.flow.queue.map (fun o => (o.kind, o.disc, o.target)))) =
    some ([(1, .loaded), (2, .bound)], [(.pick, 2, .bay 1)]) := by decide +kernel

/-- R65: NO_DISC empties the spindle and withdraws the pick. -/
theorem test_move_failed_no_disc :
    (partOf (exec (.moveFailedNoDisc 1 [1, 0, 0] 0) (having issued))).map (fun p =>
      (p.flow.discs.length, p.flow.spindles[0], p.bays[0].state)) = some (0, none, .empty) := by decide +kernel

/-- R66: DROPPED counts the disc as picked and rejected. -/
theorem test_move_failed_dropped :
    (partOf (exec (.moveFailedDropped 1 [1, 0, 1] 0) (having issued))).map (fun p =>
      (p.jobs[0].map (fun x => (x.picked, x.rejected)), p.ring.map (·.reason))) =
    some (some (1, 1), [some .dropped]) := by decide +kernel

/-- R67: JAM holds the flow and keeps the order. -/
theorem test_move_failed_jam :
    (partOf (exec (.moveFailedJam 1 [1, 0, 2] 0) (having issued))).map (fun p =>
      (p.flow.held, p.flow.issued.isSome)) = some (true, true) := by decide +kernel

/-- R50: FLOW RESUME of a running flow. -/
theorem test_flow_resume_running : responseOn1 (exec (.flowResume 1 [] 0) awake) = some (.refused .state []) := by
  decide +kernel

/-- R48: a spindle found EMPTY takes its unissued pick back. -/
theorem test_spindle_report_withdraws :
    (partOf (exec (.spindleReport 1 [0, 0, 0] 0) (having picking))).map (fun p => p.flow.queue) = some [] := by
  decide +kernel

/-- R49: FULL of the reject bin sets BIN. -/
theorem test_bin_report_full :
    (partOf (exec (.binReport 1 [1, 1] 0) awake)).map (fun p => (p.flow.rejectFull, p.links[2].flags.getLsbD 7)) =
      some (true, true) := by decide +kernel

/-- R71: DISC READ of an id without a record. -/
theorem test_disc_read_none : responseOn1 (exec (.discRead 1 [9, 0] 0) awake) = some (.refused .noDisc []) := by
  decide +kernel

/-! ## Bays -/

/-- R86: a BAY DISABLE of a RESERVED bay waits. -/
theorem test_bay_disable_waits :
    responseOn1 (exec (.bayDisable 1 [0] 0) (having picking)) = some (.done [1, 1]) := by decide +kernel

/-- R85: BAY ENABLE clears the failure count (4.13). -/
theorem test_bay_enable_clears :
    (partOf (exec (.bayEnable 1 [4] 0) (having { awakePart with
      bays := put awakePart.bays 4 { readyBay with enabled := false, failures := 3 } }))).map (fun p =>
        (p.bays[4].enabled, p.bays[4].failures, p.links[0].flags.getLsbD 8)) = some (true, 0, true) := by
  decide +kernel

/-- R79: the housekeeping timer asks for a status read. -/
theorem test_housekeeping_asks :
    (partOf (exec (.housekeepingTimerExpiry 3) (having { awakePart with
      bays := put awakePart.bays 3 { readyBay with housekeeping := some 0 } }))).map (fun p => p.bus.list) =
      some [.statusRead 3 false] := by decide +kernel

/-- R80: so does the probe timer. -/
theorem test_probe_asks :
    (partOf (exec (.probeTimerExpiry 3) (having { awakePart with
      bays := put awakePart.bays 3 { Bay.reset with probe := some 0 } }))).map (fun p => p.bus.list) =
      some [.statusRead 3 false] := by decide +kernel

/-! ## Burn sets: 6.14, 6.15 and R120 -/

/-- Bays of 6.14: maximum speeds 16, 16, 24, bay 1 HIGH. -/
def warmBays : Part := { awakePart with
  bays := #v[readyBay, readyBay, { readyBay with capability := ⟨24, 24, 24⟩ }, readyBay, readyBay, readyBay,
    readyBay, readyBay, readyBay, readyBay]
  thermal := { awakePart.thermal with
    bays := put awakePart.thermal.bays 1 { Sensor.reset with condition := .high } } }

/-- 6.14: the least of 16, 8 and 24 is 8. -/
theorem test_session_speed : sessionSpeed warmBays .dvd 0 [0, 1, 2] = 8 ∧ sessionSpeed warmBays .dvd 0 [0, 2] = 16 ∧
    sessionSpeed warmBays .dvd 4 [0, 2] = 4 ∧ sessionSpeed warmBays .dvd 1 [1] = 1 := by decide +kernel

/-- A session of 6.15, with members 4, 6 and 9. -/
def streaming : Session :=
  ⟨0, 0, .cd, 1000, .streaming, [⟨4, true⟩, ⟨6, true⟩, ⟨9, true⟩], 700, some 16, some 8, none, none, none, false, none⟩

/-- A disc of job 0 in a bay and a state. -/
def discAt (id : Nat) (st : DiscState) (b : BayNum) : Disc :=
  ⟨id, some 0, st, .bay b, none, none, some b, some 0, none, none, false, none⟩

/-- The part of 6.15 as the stall timer has expired: the READY POLL is on the bus. -/
def polling : Part := { tower with
  flow := { tower.flow with held := true, discs := [discAt 4 .burning 4, discAt 6 .burning 6, discAt 9 .burning 9] }
  bays := put (put (put tower.bays 4 { readyBay with state := .burning, disc := some 4 })
    6 { readyBay with state := .burning, disc := some 6 }) 9 { readyBay with state := .burning, disc := some 9 }
  engine := { tower.engine with sessions := put tower.engine.sessions 1 (some { streaming with laggardPoll := true }) }
  bus := { tower.bus with
    ring := [.broadcast 1], turn := .round (some ⟨.readyPoll 1, true, .command .readyPoll⟩) [] } }

/-- 6.15: lane 9 reads false: bay 9 is dropped LAGGARD, its stall timer starts and CLEAR 9 waits. -/
theorem test_laggard_drop :
    (partOf (exec (.busCommandTaken 0x50 false) (having polling))).map (fun p =>
      (p.engine.sessions[1].map (fun x => (x.members.map (·.bay), x.stall)), p.bus.list, p.bays[9].failures,
        p.flow.queue.map (·.kind))) =
    some (some ([4, 6], some 2000), [.clear 9], 1, [.bayToReject]) := by decide +kernel

/-- 6.15: an accepted block moves the cursor on to 701. -/
theorem test_block_accepted :
    (partOf (exec .blockAccepted (having { polling with
      bus := { polling.bus with turn := .block 1 true 700 [] } }))).map (fun p =>
        p.engine.sessions[1].map (fun x => (x.cursor, x.stall, x.laggardPoll))) =
      some (some (701, some 2000, false)) := by decide +kernel

/-- 6.15: a grant that finds READY low yields, and the stall timer starts. -/
theorem test_grant_yields :
    (partOf (exec (.grant false) (having { polling with
      engine := { polling.engine with sessions := put polling.engine.sessions 1 (some streaming) }
      bus := { polling.bus with turn := .none } }))).map (fun p =>
        (p.engine.sessions[1].map (·.stall), p.bus.sent, p.bus.pause)) =
      some (some (some 2000), [.unaddress, .listen 4, .listen 6, .listen 9], some 1) := by decide +kernel

/-- R115: BURN SETTINGS clamps a stall time of 41 and keeps the rest. -/
theorem test_burn_settings : responseOn1 (exec (.burnSettings 1 [0xFF, 0xFF, 0xFF, 41] 0) awake) =
    some (.doneClamped [30, 0, 16, 40]) := by decide +kernel

/-! ## Verification: 7.11 and R149 -/

/-- 7.11: peak 301, stall count 3 above the allowance of 2: the grade C is lowered to D. -/
theorem test_grades :
    discGrade ⟨64, 256, 1024⟩ 301 3 2 = .d ∧ discGrade ⟨64, 256, 1024⟩ 301 2 2 = .c ∧
    discGrade ⟨64, 256, 1024⟩ 64 0 2 = .a := by
  decide +kernel

/-- R149: LA 500 raises LB; LC 100 is raised to LB. -/
theorem test_verify_limits :
    responseOn1 (exec (.verifyLimits 1 [0xF4, 1, 0xFF, 0xFF, 0xFF, 0xFF] 0) awake) =
      some (.doneClamped (le16 500 ++ le16 500 ++ le16 1024)) ∧
    responseOn1 (exec (.verifyLimits 1 [0xFF, 0xFF, 0xFF, 0xFF, 100, 0] 0) awake) =
      some (.doneClamped (le16 64 ++ le16 256 ++ le16 256)) := by decide +kernel

/-! ## Label printing: R159, R165 and 8.12 -/

/-- R159: the ring mask at the default radii. -/
theorem test_ring_mask : ringMask Printer.reset.settings 719 719 = false ∧ ringMask Printer.reset.settings 719 1400 = true ∧
    ringMask Printer.reset.settings 0 0 = false ∧ ringMask Printer.reset.settings 720 300 = true := by decide +kernel

/-- 8.12: the factor and the three times of a line. -/
theorem test_strobe_times :
    tempFactor 10 180 = 3296 ∧
    (List.finRange 3).map (strobeTime Printer.reset.settings 600 34 3296) = [513, 449, 385] := by decide +kernel

/-- R165: ro 200 brings ri to 199; Tmin 3,000 brings both limits to 2,500. -/
theorem test_print_settings :
    (partOf (exec (.printSettings 1 [0xFF, 0xFF, 200, 0, 0xFF, 0xFF, 0xFF, 0xFF, 0xFF, 0xFF, 0xFF, 0xB8, 0x0B, 0xFF, 0xFF]
      0) awake)).map (fun p => p.printer.settings) = some ⟨199, 200, 10, 256, 224, 192, 2500, 2500⟩ := by decide +kernel

/-- R170: a length above 4,000,000 is clamped, and the printer becomes IDLE. -/
theorem test_ribbon_loaded :
    (partOf (exec (.ribbonLoaded 1 [0x01, 0x09, 0x3D, 0x00, 0xFF, 0xFF] 0 false) awake)).map (fun p =>
      (p.printer.ribbon, p.printer.state)) = some (4000000, .idle) ∧
    responseOn1 (exec (.ribbonLoaded 1 [1, 0, 0, 0, 0xFF, 0xFF] 0 true) awake) = some (.refused .state []) := by
  decide +kernel

/-- R171: a break of an IDLE printer's ribbon. -/
theorem test_ribbon_break :
    (partOf (exec .ribbonBreak (having tower))).map (fun p => (p.printer.ribbon, p.printer.state)) =
      some (0, .pausedRibbon) := by decide +kernel

/-! ## Thermal monitor: 9.8 and R182 -/

/-- 9.8: AMBIENT through a warm afternoon. -/
theorem test_ambient_afternoon :
    let lim := Part.reset.thermal.limits.ambient
    judge lim .normal 158 = .normal ∧ judge lim .normal 160 = .high ∧ judge lim .high 155 = .high ∧
    judge lim .high 203 = .critical ∧ judge lim .critical 195 = .critical ∧ judge lim .critical 192 = .critical ∧
    judge lim .critical 191 = .high ∧ judge lim .high 152 = .high ∧ judge lim .high 151 = .normal := by
  decide +kernel

/-- R182: HEAD critical 244 gives 240 and 248; AMBIENT high 600 gives 503 and 511. -/
theorem test_limits_settle : (LimitPair.mk 240 244).settle = ⟨240, 248⟩ ∧ (LimitPair.mk 600 200).settle = ⟨503, 511⟩ := by
  decide +kernel

/-! ## Links and events: 10.10 and 11.8 -/

/-- The part as it leaves tower reset, the strap open. -/
def released : State := (next (exec (.resetRelease false false false 100 100 0) State.reset)).getD State.reset

/-- 10.10, frame 1: the summary byte shows attention and the reset flag. -/
theorem test_summary_read :
    (next (exec (.summaryRead 1 0xFF) released)).map (fun t => (t.ports[1].clockedOut, t.ports[1].response)) =
      some ([0x92], .first) := by decide +kernel

/-- 10.10, frames 2, 5 and 6. -/
theorem test_link_sequence :
    responseOn1 (exec (.jobStatus 1 [3] 0) released) = some (.refused .state []) ∧
    responseOn1 (exec (.discardedFrame 1 [1, 0]) released) = some .short ∧
    responseOn1 (exec (.nullCommand 1 [] 10) released) = some .idle := by decide +kernel

/-- 10.10, frame 4. -/
theorem test_image_open_first :
    responseOn1 (exec (.imageOpen 1 [0, 100, 0, 0, 0] 0) released) = some (.done [0, 0, 0, 1, 0]) := by decide +kernel

/-- R187: a command byte of 27h is no command code. -/
theorem test_unknown_code : judgeFrame [0x27, 0] = .unknown ∧ judgeFrame [0x26, 0] = .short := by decide +kernel

/-- An entry of the ring, named by its disc id. -/
def entry (id : Nat) : ResultEntry := ⟨id, some 0, .accepted, none, none, none, none, false⟩

/-- 11.8, the start: entries 101 to 164, link 0 at 64 unread, link 1 at 10, link 2 at 0. -/
def fullRing : Part := { awakePart with
  ring := (List.range 64).map fun i => entry (101 + i)
  links := #v[⟨0, 0x3FFF, 64⟩, ⟨0, 0x3FFF, 10⟩, ⟨0, 0x3FFF, 0⟩] }

/-- 11.8: entry 165 is appended. -/
theorem test_append_overruns :
    (appendResult (entry 165) fullRing).links = #v[⟨0x2000, 0x3FFF, 64⟩, ⟨0, 0x3FFF, 11⟩, ⟨0, 0x3FFF, 1⟩] ∧
    (appendResult (entry 165) fullRing).ring.head? = some (entry 102) := by decide +kernel

/-- 11.8: link 1 reads 8 and has 3 left, from entry 163 on. -/
theorem test_results_read :
    (partOf (exec (.resultsRead 1 [8] 0) (having (appendResult (entry 165) fullRing)))).map (fun p =>
      (p.links[1].unread, (unreadEntries p 1).map (·.disc))) = some (3, [163, 164, 165]) := by decide +kernel

/-- 11.8: EVENTS CLEAR shows the flags before and after. -/
theorem test_events_clear :
    (next (exec (.eventsClear 0 [0, 0x20] 0) (having (appendResult (entry 165) fullRing)))).map (fun t =>
      t.ports[0].response) = some (.done [0, 0x20, 0, 0]) := by decide +kernel


/-! ## Well-formedness: one ill-formed term for each check -/

/-- A bulk frame has 65,536 data bytes (R187). -/
theorem smoke_image_write : (Instr.imageWrite 0 0 0 [1, 2] 0).wellFormed = false ∧
    ∀ data : List Byte, data.length = 65536 → (Instr.imageWrite 0 0 0 data 0).wellFormed = true := by
  refine ⟨by decide +kernel, fun data h => ?_⟩
  simp [Instr.wellFormed, h]

/-- A MOVE FAILED stands under the row of its failure byte (12.4), and its payload fits a frame. -/
theorem smoke_move_failed :
    (Instr.moveFailedNoDisc 0 [1, 0, 1] 0).wellFormed = false ∧ (Instr.moveFailedNoDisc 0 [1, 0, 0] 0).wellFormed = true ∧
    (Instr.moveFailedDropped 0 [1, 0, 2] 0).wellFormed = false ∧
    (Instr.moveFailedDropped 0 [1, 0, 1] 0).wellFormed = true ∧
    (Instr.moveFailedJam 0 [1, 0, 0] 0).wellFormed = false ∧ (Instr.moveFailedJam 0 [1, 0, 2] 0).wellFormed = true ∧
    (Instr.moveFailedNoDisc 0 (List.replicate 241 0) 0).wellFormed = false := by decide +kernel

/-- A readback block has 65,536 data bytes (R95). -/
theorem smoke_readback_block : (Instr.readbackBlockTaken [1, 2] 0).wellFormed = false ∧
    ∀ data : List Byte, data.length = 65536 → (Instr.readbackBlockTaken data 0).wellFormed = true := by
  refine ⟨by decide +kernel, fun data h => ?_⟩
  simp [Instr.wellFormed, h]

/-- A discarded frame is one that its checks discard, or a select without a whole byte (R185 to R187). -/
theorem smoke_discarded_frame : (Instr.discardedFrame 0 (commandFrame 0 [])).wellFormed = false ∧
    (Instr.discardedFrame 0 [0]).wellFormed = false ∧ (Instr.discardedFrame 0 [0, 0]).wellFormed = true ∧
    (Instr.discardedFrame 0 []).wellFormed = true := by
  decide +kernel

/-- A payload fits a frame (R186). -/
theorem smoke_payload : (Instr.nullCommand 0 (List.replicate 241 0) 0).wellFormed = false ∧
    (Instr.nullCommand 0 (List.replicate 240 0) 0).wellFormed = true := by decide +kernel

/-! ## Witnesses: for each obligation with hypotheses, a state and operands that meet them -/

/-- A link takes frames when the part is out of reset. -/
theorem having_open (p : Part) (h : p.held = false) (l : Link) : LinkOpen l (having p) := ⟨h, by simp [having, State.reset, Port.reset]⟩

theorem witness_StepTakesTheFront :
    ({ awake with pending := [.attnRise, .serviceRound] } : State).pending = .attnRise :: [.serviceRound] := rfl

theorem witness_EmptyQueueLetsTimePass : State.reset.pending = [] ∧ State.reset.part.held = true ∧
    awake.pending = [] ∧ awake.part.held = false := ⟨rfl, rfl, rfl, rfl⟩

theorem witness_ResetHoldsFramesOff :
    LinkOpen 0 awake ∧
    (State.reset.part.held = true ∧ (Instr.moveNext 2 [] 0).isReset = false ∧ Instr.lineFired.isReset = false) ∧
    let s : State := { awake with ports := put awake.ports 2 { Port.reset with straddling := true } }
    (Instr.moveNext 2 [] 0).linkOf = some 2 ∧ (Instr.discardedFrame 2 []).linkOf = some 2 ∧ s.part.held = false ∧
      s.ports[(2 : Link)].straddling = true := by
  refine ⟨having_open _ rfl _, ⟨rfl, rfl, rfl⟩, rfl, rfl, rfl, ?_⟩
  decide +kernel

/-- R196: a select that was low at the release rises without a whole byte, and the next frame is taken: the JOB STATUS
of a free record receives FIRST and leaves REFUSED STATE. -/
theorem test_empty_select_ends_straddling :
    let s := (next (exec (.resetRelease false false false 100 100 2) State.reset)).getD State.reset
    let t := (next (exec (.discardedFrame 1 []) s)).getD s
    s.ports[1].straddling = true ∧ t.ports[1].straddling = false ∧ t.ports[1].response = .first ∧
    responseOn1 (exec (.jobStatus 1 [3] 0) t) = some (.refused .state []) := by decide +kernel

/-- R185 and R195: 92h is clocked out as the pairs 10, 01, 00, 10; nothing is driven while the part is held. -/
theorem test_data_outputs :
    let s := { awake with ports := put awake.ports 1 { Port.reset with clockedOut := [0x92] } }
    dataOutputs s 1 = some [2, 1, 0, 2] ∧ dataOutputs State.reset 1 = none := by decide +kernel

theorem witness_FramesReadBack :
    (∀ i ∈ [Instr.linkReset 2 (List.replicate 240 0) 3, .summaryRead 0 0xFF, .discardedFrame 1 [0x27, 0],
        .discardedFrame 2 [], .moveFailedJam 1 [1, 0, 2] 0],
      i.wellFormed = true ∧ i.linkOf ≠ none ∧ frameOf i ≠ none) ∧
    (∀ pins, (Instr.linkReset 2 [] 3).switchesAgree pins) ∧
    (Instr.printerStatus 0 [] 0 true false).switchesAgree { Pins.reset with breakShown := true } ∧
    ∀ data : List Byte, data.length = 65536 → (Instr.imageWrite 0 7 0 data 1).wellFormed = true := by
  refine ⟨by decide +kernel, fun _ => trivial, ⟨rfl, rfl⟩, fun data h => ?_⟩
  simp [Instr.wellFormed, h]

/-- A bulk frame of 65,536 bytes of data passes its checks. -/
theorem bulk_taken (slot : Byte) (index : BitVec 32) (data : List Byte) (h : data.length = 65536) :
    judgeFrame (bulkFrame slot index data) = .bulk slot index data := by
  have e : le32 index.toNat = [byte index.toNat, byte (index.toNat / 256), byte (index.toNat / 65536),
    byte (index.toNat / 16777216)] := rfl
  have n := num32_le32 index.isLt
  simp only [bulkFrame, bulkHead, e, List.cons_append, List.nil_append, judgeFrame, imageWriteCode,
    show (byte 2).toNat = 2 from rfl, if_true, judgeBulk, n]
  have l4 : ∀ k, (le32 k).length = 4 := fun _ => rfl
  rw [if_neg (by simp [h, l4])]
  have d : (data ++ le32 (crc32 (byte 2 :: slot :: byte index.toNat :: byte (index.toNat / 256) ::
      byte (index.toNat / 65536) :: byte (index.toNat / 16777216) :: data)).toNat).take 65536 = data :=
    List.take_left' h
  have r : ∀ x : List Byte, (data ++ x).drop 65536 = x := fun x => List.drop_left' h
  simp only [d, r, BitVec.ofNat_toNat, BitVec.setWidth_eq]
  rw [if_pos]
  rw [List.take_of_length_le (by simp [l4])]
  simp [e]

theorem witness_FramesAreJudged :
    judgeFrame (commandFrame 38 [8] ++ [0, 0]) = .command 38 [8] ∧
    (∀ data : List Byte, data.length = 65536 → judgeFrame (bulkFrame 7 3 data) = .bulk 7 3 data) ∧
    LinkOpen 1 awake ∧ 38 < (0x27 : Byte).toNat ∧ (0x26 : Byte).toNat ≤ 38 ∧ (0x26 : Byte).toNat ≠ 2 ∧
    240 < num16 241 0 ∧
    (num16 240 0 ≤ 240 ∧ (0 :: 240 :: 0 :: List.replicate 241 0 : List Byte).length < 5 + num16 240 0) ∧
    (num16 0 0 ≤ 240 ∧ 5 + num16 0 0 ≤ [(0 : Byte), 0, 0, 0, 0].length ∧
      ([(0 : Byte), 0].drop (num16 0 0)).take 2 ≠ le16 (crc16 ([(0 : Byte), 0, 0, 0, 0].take (3 + num16 0 0))).toNat) ∧
    ((2 : Byte).toNat = 2 ∧ [(2 : Byte), 0].length < 65546) ∧
    ∀ data : List Byte, data.length = 65536 →
      let head := bulkHead 0 0 data
      let bytes := head ++ (le32 (crc32 head).toNat).map (· + 1)
      65546 ≤ bytes.length ∧ (bytes.drop 65542).take 4 ≠ le32 (crc32 (bytes.take 65542)).toNat := by
  refine ⟨by decide +kernel, fun data h => bulk_taken 7 3 data h, having_open _ rfl _, by decide +kernel,
    by decide +kernel, by decide +kernel, by decide +kernel, by decide +kernel, by decide +kernel, by decide +kernel,
    fun data h => ?_⟩
  have l : (bulkHead 0 0 data).length = 65542 := by simp [bulkHead, le32, h]
  intro head bytes
  have t : bytes.take 65542 = head := List.take_left' l
  have r : bytes.drop 65542 = (le32 (crc32 head).toNat).map (· + 1) := List.drop_left' l
  refine ⟨by simp only [bytes, head, List.length_append, l]; simp [le32], ?_⟩
  rw [t, r]
  simp [le32]

/-- For SummaryReadShowsTheByte, EventsReadShowsTheLink, PrintSettingsAreSettled and BurnAndGradeSettings, whose only
hypothesis is that the link takes frames. -/
theorem witness_links : ∀ l : Link, LinkOpen l awake := fun l => having_open _ rfl l

theorem witness_NullCollectsTheResponse : LinkOpen 0 awake ∧ (List.replicate 240 (5 : Byte)).length ≤ 240 :=
  ⟨having_open _ rfl _, List.length_replicate.le⟩

theorem witness_LinkResetActsOnOneLink : LinkOpen 0 awake ∧ List.replicate 240 (5 : Byte) ≠ [] ∧
    (List.replicate 240 (5 : Byte)).length ≤ 240 := 
  ⟨having_open _ rfl _, List.cons_ne_nil 5 (List.replicate 239 5), List.length_replicate.le⟩

theorem witness_FramesAreJudged_lengths : LinkOpen 0 awake ∧ ([] : List Byte).length ≤ 240 ∧
    (∀ n ∈ [1, 2, 3, 4, 5, 6, 12, 13, 14, 15], ([] : List Byte).length ≠ n) ∧ [(0 : Byte)].length ≠ 0 ∧
    1 < [(0 : Byte), 0].length ∧ [(0 : Byte)] ≠ [] := ⟨having_open _ rfl _, by decide⟩

theorem witness_EventsClearAndMask : LinkOpen 2 awake ∧ (0x40 : Byte).getLsbD 6 = true ∧ (0x80 : Byte).getLsbD 7 = true :=
  ⟨having_open _ rfl _, rfl, rfl⟩

theorem witness_ResultsRingServesEachLink : LinkOpen 2 (having fullRing) ∧ fullRing.ring.length = 64 ∧
    64 ≤ fullRing.links[(0 : Link)].unread ∧ fullRing.links[(1 : Link)].unread < 64 ∧ awakePart.ring.length < 64 ∧
    (9 : Byte) ≠ 0xFF#8 ∧ 8 < (9 : Byte).toNat ∧ (0 : Byte) ≠ 0xFF#8 :=
  ⟨having_open _ rfl _, by decide +kernel⟩

theorem witness_FlagsAndMasksStay :
    (Instr.eventsClear 0 [1, 0] 0).endsEventsOf 1 = false ∧ Instr.lineFired.endsEventsOf 1 = false ∧
    (∃ t, exec (.eventsClear 0 [1, 0] 0) released = .next t) ∧ (∃ t, exec .lineFired released = .next t) ∧
    released.part.links[(1 : Link)].flags.getLsbD 0 = true := by
  refine ⟨rfl, rfl, ⟨_, rfl⟩, ⟨_, rfl⟩, by decide +kernel⟩

/-! ### Image store -/

/-- Slots: a whole frozen disc and label, fills cut short and complete, one RETIRING, one unused; jobs in every state but
CANCELLING. -/
def store : Part := { awakePart with
  slots := #v[some (frozenDisc 0 2), some (frozenLabel 1 1), some { newSlot .disc 100 2 with fill := 3 },
    some { newSlot .disc 100 3 with fill := 4, crc := none, digests := [7#32] },
    some { frozenDisc 4 1 with state := .retiring }, some (frozenDisc 5 0), none, none]
  jobs := #v[some (job .draft), some (job .queued), some (job .running), some (job .halting), some (job .halted),
    some (job .done), some (job .cancelled), none, none, none, none, none]
  runList := [1, 2, 3, 4] }

/-- The same with job 3 CANCELLING. -/
def cancelling : Part := { store with jobs := put store.jobs 3 (some (job .cancelling)) }

/-- The store with the strap tied. -/
def tied : Part := { store with strap := true }

theorem witness_ImageOpenTakesTheFirstFit :
    (let s := having { awakePart with
      slots := #v[filling .disc 2295104 0, filling .label 1440 2242, none, none, none, none, none, none] }
     let free := fun a => ∀ (m : SlotNum) (x : Slot), s.part.slots[m] = some x →
       x.first + x.chunkCount ≤ a ∨ a + 293 ≤ x.first
     LinkOpen 0 s ∧ ((300000 + 31) / 32 + 31) / 32 = 293 ∧ s.part.slots[(2 : SlotNum)] = none ∧
       (∀ m : SlotNum, m < 2 → s.part.slots[m] ≠ none) ∧ 2243 + 293 ≤ 16384 ∧ free 2243 ∧ ∀ a, a < 2243 → ¬ free a) ∧
    ((16777216 + 31) / 32 + 31) / 32 = 16384 ∧
    (∀ (m : SlotNum) (x : Slot), awakePart.slots[m] = some x → x.first + x.chunkCount ≤ 0 ∨ 0 + 16384 ≤ x.first) ∧
    (let s := having { awakePart with slots := Vector.replicate 8 (some (frozenDisc 0 0)) }
     LinkOpen 0 s ∧ ∀ n : SlotNum, s.part.slots[n] ≠ none) ∧
    (let s := having { awakePart with slots := put awakePart.slots 0 (filling .disc 16777216 0) }
     LinkOpen 0 s ∧ s.part.slots[(1 : SlotNum)] = none ∧ ∀ a, a + 1 ≤ 16384 →
       ∃ (m : SlotNum) (x : Slot), s.part.slots[m] = some x ∧ a < x.first + x.chunkCount ∧ x.first < a + 1) := by
  refine ⟨⟨having_open _ rfl _, by decide, rfl, by decide +kernel, by decide, ?_, ?_⟩, by decide, ?_,
    ⟨having_open _ rfl _, by decide +kernel⟩, having_open _ rfl _, by decide +kernel, ?_⟩
  · intro m x hx
    have h : ∀ m : SlotNum, ∀ x ∈ (#v[filling .disc 2295104 0, filling .label 1440 2242, none, none, none, none, none,
      none] : Vector (Option Slot) 8)[m], x.first + x.chunkCount ≤ 2243 := by decide +kernel
    exact .inl (h m x hx)
  · intro a ha free
    have h0 := free 0 (newSlot .disc 2295104 0) (by decide +kernel)
    have h1 := free 1 (newSlot .label 1440 2242) (by decide +kernel)
    have c0 : (newSlot .disc 2295104 0).first + (newSlot .disc 2295104 0).chunkCount = 2242 := by decide +kernel
    have c1 : (newSlot .label 1440 2242).first + (newSlot .label 1440 2242).chunkCount = 2243 := by decide +kernel
    have f0 : (newSlot .disc 2295104 0).first = 0 := rfl
    have f1 : (newSlot .label 1440 2242).first = 2242 := rfl
    omega
  · intro m x hx
    have h : ∀ m : SlotNum, awakePart.slots[m] = none := by decide +kernel
    rw [h m] at hx
    cases hx
  · intro a ha
    refine ⟨0, newSlot .disc 16777216 0, by decide +kernel, ?_, ?_⟩
    · have : (newSlot .disc 16777216 0).first + (newSlot .disc 16777216 0).chunkCount = 16384 := by decide +kernel
      omega
    · show 0 < a + 1
      omega

theorem witness_ImageWriteStoresTheBlock :
    LinkOpen 0 (having store) ∧
    (∃ x c, store.slots[(2 : SlotNum)] = some x ∧ x.state = .filling ∧ x.crc = some c ∧ x.fill < x.blockCount ∧
      (3#32).toNat = x.fill ∧ x.first + x.chunkCount ≤ 16384 ∧ x.fill + 1 = x.blockCount) ∧
    (let x := { newSlot .disc 2100 0 with fill := 31 }
     x.fill < x.blockCount ∧ x.fill % 32 = 31 ∧ x.first + x.chunkCount ≤ 16384) ∧
    (List.replicate 65536 (0 : Byte)).length = 65536 ∧ 7 < (8 : Byte).toNat ∧ store.slots[(7 : SlotNum)] = none ∧
    store.slots[(0 : SlotNum)] = some (frozenDisc 0 2) ∧ (frozenDisc 0 2).state = .frozen ∧
    store.slots[(4 : SlotNum)] = some { frozenDisc 4 1 with state := .retiring } ∧
    (∃ x, store.slots[(3 : SlotNum)] = some x ∧ x.state = .filling ∧ x.fill = x.blockCount) ∧
    (2#32).toNat ≠ 3 := by
  refine ⟨having_open _ rfl _, ⟨_, _, rfl, rfl, rfl, by decide +kernel, rfl, by decide +kernel, by decide +kernel⟩,
    by decide +kernel, List.length_replicate, by decide, rfl, rfl, rfl, rfl, ⟨_, rfl, rfl, by decide +kernel⟩, by decide⟩

theorem witness_ImageFreezeRetireThaw :
    LinkOpen 0 (having store) ∧ store.slots[(7 : SlotNum)] = none ∧
    (∃ x, store.slots[(3 : SlotNum)] = some x ∧ x.state = .filling ∧ x.fill = x.blockCount) ∧
    (∃ x, store.slots[(2 : SlotNum)] = some x ∧ x.state = .filling ∧ x.fill < x.blockCount) ∧
    (∃ x, store.slots[(5 : SlotNum)] = some x ∧ x.state = .frozen ∧ x.refs = 0) ∧
    (∃ x, store.slots[(1 : SlotNum)] = some x ∧ x.state = .frozen ∧ 0 < x.refs) ∧
    (∃ x, store.slots[(4 : SlotNum)] = some x ∧ x.state = .retiring) ∧ 7 < (8 : Byte).toNat ∧
    LinkOpen 0 (having tied) ∧ store.strap = false ∧ tied.strap = true ∧ tied.slots[(7 : SlotNum)] = none := by
  refine ⟨having_open _ rfl _, rfl, ⟨_, rfl, rfl, by decide +kernel⟩, ⟨_, rfl, rfl, by decide +kernel⟩,
    ⟨_, rfl, rfl, rfl⟩, ⟨_, rfl, rfl, by decide⟩, ⟨_, rfl, rfl⟩, by decide, having_open _ rfl _, rfl, rfl, rfl⟩

theorem witness_StoredBlockReadsBack : Memory.wf [] ∧ Memory.wf [(0, 1#8)] ∧
    (List.replicate 65536 (9 : Byte)).length = 65536 ∧ 3 < (newSlot .disc 100 0).blockCount ∧
    0 < (newSlot .label 1 16383).blockCount ∧
    (newSlot .disc 1 0).kind = .disc ∧ 0 < (newSlot .disc 1 0).length ∧ (newSlot .label 1 0).kind = .label ∧
    0 < (newSlot .label 1 0).length ∧ 2 + 1 < (newSlot .disc 100 0).blockCount := by
  refine ⟨⟨.nil, by simp⟩, ⟨by simp, by simp [unlisted]⟩, List.length_replicate, by decide +kernel⟩

/-- R3: 65 sectors are three blocks in one chunk, the last of one sector; 1,440 lines are four blocks, the last of
62,592 bytes. -/
theorem test_block_counts :
    ((newSlot .disc 65 0).blockCount, (newSlot .disc 65 0).chunkCount, (newSlot .disc 65 0).bytesIn 2) = (3, 1, 2048) ∧
    ((newSlot .label 1440 0).blockCount, (newSlot .label 1440 0).chunkCount, (newSlot .label 1440 0).bytesIn 3) =
      (4, 1, 62592) := by decide +kernel

/-! ### Jobs -/

theorem witness_JobDefineDrafts :
    LinkOpen 0 (having store) ∧ num16 0x0F 0x27 ≠ 65535 ∧ store.jobs[(7 : JobNum)] = none ∧
    (∀ i : JobNum, i < 7 → store.jobs[i] ≠ none) ∧ clampNat 1 9999 (num16 0x10 0x27) ≠ num16 0x10 0x27 ∧
    [(8 : Byte), 0, 1, 0, 1, 0, 0, 0, 0, 0, 0, 0].length ≠ 13 ∧
    (7 < (8 : Byte).toNat ∧ 2 < (3 : Byte).toNat ∧ num16 0xFF 0xFF = 65535 ∧ (3 : Byte) ≠ 0xFF#8 ∧
      3 < (4 : Byte).toNat ∧ (8 : Byte) ≠ 0xFF#8) ∧
    ∀ j : JobNum, ({ store with jobs := Vector.replicate 12 (some (job .done)) } : Part).jobs[j] ≠ none :=
  ⟨having_open _ rfl _, by decide +kernel⟩

/-- A definition with every field left out. -/
def nothingGiven : List Byte := [0xFF, 0xFF, 0xFF, 0xFF, 0xFF, 0xFF, 0xFF, 0xFF, 0xFF, 0xFF, 0x80, 0xFF, 0xFF]

theorem witness_JobAmendSettles :
    LinkOpen 0 (having store) ∧ store.jobs[(0 : JobNum)] = some (job .draft) ∧ nothingGiven.length = 13 ∧
    store.jobs[(1 : JobNum)] = some (job .queued) ∧ (job .draft).state = .draft ∧ (job .queued).state ≠ .draft ∧
    (7 < (8 : Byte).toNat ∧ (8 : Byte) ≠ 0xFF#8 ∧ 2 < (3 : Byte).toNat ∧ (3 : Byte) ≠ 0xFF#8 ∧ 3 < (4 : Byte).toNat ∧
      (4 : Byte) ≠ 0xFF#8 ∧ 7 < (0xFD : Byte).toNat ∧ (0xFD : Byte) ≠ 0xFE#8 ∧ (0xFD : Byte) ≠ 0xFF#8) ∧
    (7 : Byte) = byte (7 : SlotNum).val ∧ num16 0xFE 0xFF ≠ 65535 ∧ clampNat 1 10 11 ≠ 11 :=
  ⟨having_open _ rfl _, by decide +kernel⟩

/-- R26 and R208: the label slot byte of JOB AMEND on a DRAFT whose label slot is 1: FFh leaves it, FEh makes it absent,
7 sets it, 8 is refused. -/
theorem test_amend_label :
    let p : Part := { store with
      jobs := put store.jobs 0 (some { job .draft with defn := { sampleDefn with labelSlot := some 1 } }) }
    let after := fun b : Byte => (partOf (exec (.jobAmend 0 (0 :: nothingGiven.set 9 b) 0) (having p))).bind fun q =>
      q.jobs[(0 : JobNum)].map (·.defn.labelSlot)
    [0xFF, 0xFE, 7, 8].map after = [some (some 1), some none, some (some 7), some (some 1)] := by decide +kernel

theorem witness_JobNumberIsChecked : LinkOpen 0 (having store) ∧ nothingGiven.length = 13 ∧ 11 < (12 : Byte).toNat ∧
    (11 : Byte) = byte (11 : JobNum).val ∧ store.jobs[(11 : JobNum)] = none :=
  ⟨having_open _ rfl _, by decide +kernel⟩

/-- The store with a job 0 of the given media whose disc slot holds an image of the given length. -/
def sized (m : Media) (length : Nat) : Part := { store with
  slots := put store.slots 0 (some { frozenDisc 0 2 with length := length })
  jobs := put store.jobs 0 (some { job .draft with defn := { sampleDefn with media := m, labelSlot := some 1 } }) }

theorem witness_JobQueueTakesReferences :
    (LinkOpen 0 (having store) ∧ store.jobs[(0 : JobNum)] = some (job .draft) ∧
      store.slots[sampleDefn.discSlot] = some (frozenDisc 0 2) ∧ sampleDefn.labelSlot = (none : Option (SlotNum × Slot)).map Prod.fst) ∧
    (∀ x ∈ [(Media.cd, 360000), (.dvd, 2295104), (.bd, 12219392)],
      let p := sized x.1 x.2
      LinkOpen 0 (having p) ∧ (∃ d, p.slots[(0 : SlotNum)] = some d ∧ d.kind = .disc ∧ d.state = .frozen ∧ d.length = x.2) ∧
      p.slots[(1 : SlotNum)] = some (frozenLabel 1 1)) ∧
    store.jobs[(1 : JobNum)] = some (job .queued) ∧
    (∀ n ∈ [(1 : SlotNum), 2, 4, 7], ∀ y ∈ store.slots[n], ¬ (y.kind = .disc ∧ y.state = .frozen)) ∧
    (sized .cd 360001).slots[(0 : SlotNum)] = some { frozenDisc 0 2 with length := 360001 } := by
  refine ⟨⟨having_open _ rfl _, by decide +kernel⟩, ?_, by decide +kernel⟩
  intro x hx
  simp only [List.mem_cons, List.not_mem_nil, or_false] at hx
  obtain rfl | rfl | rfl := hx <;> exact ⟨having_open _ rfl _, ⟨_, rfl, rfl, rfl, rfl⟩, rfl⟩

theorem witness_AdmissionTakesTheEarliest :
    let p : Part := { store with runList := [2, 1, 4], jobs := put store.jobs 3 none }
    placesHeld p < 2 ∧ p.runList = [2] ++ 1 :: [4] ∧ p.jobs[(1 : JobNum)] = some (job .queued) ∧
    ∀ i ∈ [(2 : JobNum)], ∀ y, p.jobs[i] = some y → y.state ≠ .queued := by
  refine ⟨by decide +kernel, rfl, rfl, ?_⟩
  intro i hi y hy
  simp only [List.mem_singleton] at hi
  subst hi
  cases hy
  decide

theorem witness_JobStatesByCommand :
    LinkOpen 0 (having store) ∧ LinkOpen 0 (having cancelling) ∧ store.jobs[(2 : JobNum)] = some (job .running) ∧
    store.jobs[(1 : JobNum)] = some (job .queued) ∧ store.jobs[(3 : JobNum)] = some (job .halting) ∧
    store.jobs[(4 : JobNum)] = some (job .halted) ∧ store.jobs[(0 : JobNum)] = some (job .draft) ∧
    store.jobs[(5 : JobNum)] = some (job .done) ∧ store.jobs[(6 : JobNum)] = some (job .cancelled) ∧
    cancelling.jobs[(3 : JobNum)] = some (job .cancelling) :=
  ⟨having_open _ rfl _, having_open _ rfl _, by decide +kernel⟩

/-- A disc of job 0 in bay 0, in the given state. -/
def inBay0 (st : DiscState) : Disc := discAt 1 st 0

/-- The tower with a disc of job 0 in bay 0, in the given state. -/
def withDisc (st : DiscState) : Part := { tower with
  flow := { tower.flow with discs := [inBay0 st], nextId := 2 }
  bays := put tower.bays 0 { readyBay with state := bayStateOf st, disc := some 1 } }

/-- The order that takes disc 1 from bay 0 to the tray. -/
def toTray : Order := ⟨.bayToPrinter, 1, .bay 0, .tray, 0⟩

/-- The tower with a PRINT_WAIT disc under that order, not issued. -/
def ordered : Part :=
  { withDisc .printWait with flow := { (withDisc .printWait).flow with queue := [toTray], nextSeq := 1 } }

/-- The same with the order issued. -/
def underway : Part := { ordered with flow := { ordered.flow with issued := some toTray } }

theorem witness_JobCancelDealsWithDiscs :
    (LinkOpen 0 (having store) ∧ LinkOpen 0 (having cancelling) ∧ store.jobs[(2 : JobNum)] = some (job .running) ∧
      store.jobs[(3 : JobNum)] = some (job .halting) ∧ cancelling.jobs[(3 : JobNum)] = some (job .cancelling)) ∧
    (∀ st, (inBay0 st).position = .bay 0 ∧ (inBay0 st).state = st) ∧
    orderOf (withDisc .printWait) 1 = none ∧ orderOf ordered 1 = some toTray ∧ ordered.flow.issued ≠ some toTray ∧
    orderOf underway 1 = some toTray ∧ underway.flow.issued = some toTray ∧
    (∀ st, ({ inBay0 st with position := .tray } : Disc).state = st) :=
  ⟨⟨having_open _ rfl _, having_open _ rfl _, by decide +kernel⟩, fun _ => ⟨rfl, rfl⟩, by decide +kernel,
    by decide +kernel, by decide +kernel, by decide +kernel, by decide +kernel, fun _ => rfl⟩

theorem witness_DiscReportsAreCounted :
    (∀ st, ({ tower with jobs := put tower.jobs 0 (some (job st)) } : Part).jobs[(0 : JobNum)] = some (job st)) ∧
    (let x := { job .running with accepted := 2 }
     x.accepted + 1 = x.defn.target) ∧
    (let x := { job .running with rejected := 19 }
     x.defn.rejectLimit ≠ 0 ∧ x.defn.rejectLimit ≤ x.rejected + 1) ∧
    0 < inFlight (withDisc .burned) 0 ∧ inFlight tower 0 = 0 ∧
    (job .done).defn.labelSlot = none ∧
    (∃ d, ({ tower with slots := put tower.slots 0 (some { frozenDisc 0 1 with state := .retiring }) } : Part).slots[
      (job .running).defn.discSlot] = some d ∧ 0 < d.refs ∧ d.state = .retiring ∧ d.refs = 1) ∧
    (∃ d, store.slots[(job .running).defn.discSlot] = some d ∧ 1 < d.refs) := by
  refine ⟨fun st => ?_, by decide, by decide, by decide +kernel, by decide +kernel, rfl, ⟨_, rfl, by decide, rfl, rfl⟩,
    ⟨_, rfl, by decide⟩⟩
  simp [put]

/-! ### Moves -/

theorem witness_MoveNextIssues :
    LinkOpen 0 (having issued) ∧ issued.flow.issued = some ⟨.pick, 1, .spindle 0, .bay 0, 0⟩ ∧
    LinkOpen 0 (having ordered) ∧
    (let p : Part := { ordered with flow := { ordered.flow with
      queue := [⟨.bayToReject, 9, .bay 3, .rejectBin, 1⟩, toTray], rejectFull := true } }
     LinkOpen 0 (having p) ∧ p.flow.issued = none ∧ p.flow.held = false ∧ p.flow.rejectFull = true ∧
       p.flow.queue = [⟨.bayToReject, 9, .bay 3, .rejectBin, 1⟩] ++ toTray :: []) ∧
    (let p : Part := { ordered with flow := { ordered.flow with held := true } }
     LinkOpen 0 (having p) ∧ p.flow.issued = none ∧ p.flow.held = true) :=
  ⟨having_open _ (by decide +kernel) _, by decide +kernel, having_open _ rfl _, ⟨having_open _ rfl _, by decide +kernel⟩,
    having_open _ rfl _, by decide +kernel⟩

theorem witness_PickReportedDone :
    let o : Order := ⟨.pick, 1, .spindle 0, .bay 0, 0⟩
    LinkOpen 0 (having issued) ∧ issued.flow.issued = some o ∧ o.kind = .pick ∧ o.target = .bay 0 ∧ 0 < o.disc ∧
    o.disc < 65536 ∧ (findDisc issued o.disc).map (·.job) = some (some 0) ∧
    ({ issued with jobs := put issued.jobs 0 (some (job .cancelling)) } : Part).jobs[(0 : JobNum)] =
      some (job .cancelling) :=
  ⟨having_open _ (by decide +kernel) _, by decide +kernel⟩

/-- The tower with a FAILED disc on its way to the tray. -/
def spoiled : Part := { underway with
  flow := { underway.flow with discs := [{ inBay0 .failed with reason := some .cancelled }] } }

theorem witness_TrayMoveReportedDone :
    (LinkOpen 0 (having underway) ∧ underway.flow.issued = some toTray ∧ toTray.source = .bay 0 ∧
      toTray.target = .tray ∧ 0 < toTray.disc ∧ toTray.disc < 65536 ∧ findDisc underway 1 = some (inBay0 .printWait) ∧
      (inBay0 .printWait).job = some 0 ∧
      (underway.jobs[(0 : JobNum)]).map (·.defn.labelSlot) = some (some 1) ∧ underway.slots[(1 : SlotNum)] ≠ none) ∧
    LinkOpen 0 (having spoiled) ∧ spoiled.flow.issued = some toTray ∧
    (findDisc spoiled 1).map (·.state) = some .failed ∧
    ∀ x ∈ spoiled.flow.discs, x.id = toTray.disc → x.state = .failed :=
  ⟨⟨having_open _ rfl _, by decide +kernel⟩, having_open _ rfl _, by decide +kernel⟩

/-- A part with one disc, its order issued. -/
def moving (d : Disc) (o : Order) : Part := { tower with
  flow := { tower.flow with discs := [d], queue := [o], issued := some o, nextId := 2, nextSeq := 1 } }

/-- A PRINTED disc in the tray. -/
def inTray (st : DiscState) : Disc := { inBay0 st with position := .tray }

theorem witness_DeliveryReportedDone :
    (∀ x ∈ [(inBay0 .passed, Order.mk .bayToAccept 1 (.bay 0) .acceptBin 0),
        (inBay0 .failed, ⟨.bayToReject, 1, .bay 0, .rejectBin, 0⟩),
        (inTray .printed, ⟨.printerToAccept, 1, .tray, .acceptBin, 0⟩),
        (inTray .failed, ⟨.printerToReject, 1, .tray, .rejectBin, 0⟩)],
      (moving x.1 x.2).flow.issued = some x.2 ∧ 0 < x.2.disc ∧ x.2.disc < 65536 ∧
      findDisc (moving x.1 x.2) x.2.disc = some x.1) ∧
    (∀ d o, LinkOpen 0 (having (moving d o))) ∧
    tower.bays[(0 : BayNum)].disablePending = false ∧
    ({ tower with bays := put tower.bays 0 { readyBay with disablePending := true } } : Part).bays[
      (0 : BayNum)].disablePending = true ∧
    tower.printer.state ≠ .doneWait ∧ 0 < tower.printer.ribbon ∧ awakePart.printer.ribbon = 0 ∧
    ({ tower.printer with state := .doneWait, ribbon := 1 } : Printer).ribbon = 1 :=
  ⟨by decide +kernel, fun _ _ => having_open _ rfl _, by decide +kernel⟩

theorem witness_FailedMovesTakeEffect :
    (∀ x ∈ [({ inBay0 .bound with position := .spindle 0 }, Order.mk .pick 1 (.spindle 0) (.bay 0) 0),
        (inBay0 .passed, ⟨.bayToAccept, 1, .bay 0, .acceptBin, 0⟩),
        (inTray .printed, ⟨.printerToAccept, 1, .tray, .acceptBin, 0⟩)],
      (moving x.1 x.2).flow.issued = some x.2 ∧ 0 < x.2.disc ∧ x.2.disc < 65536 ∧
      findDisc (moving x.1 x.2) x.2.disc = some x.1) ∧
    (∀ d o, LinkOpen 0 (having (moving d o))) ∧ LinkOpen 0 awake ∧
    num16 0 0 = 0 ∧ 5 < (6 : Byte).toNat ∧ 2 < (3 : Byte).toNat ∧ num16 1 0 ≠ 0 ∧ (5 : Byte).toNat ≤ 5 ∧
    (2 : Byte).toNat ≤ 2 ∧ awake.part.flow.issued = none ∧
    underway.flow.issued = some toTray ∧ toTray.disc = num16 1 0 ∧ toTray.kind ≠ .pick :=
  ⟨by decide +kernel, fun _ _ => having_open _ rfl _, having_open _ rfl _, by decide +kernel⟩

theorem witness_FlowReportsAndDiscRead :
    LinkOpen 0 (having tower) ∧ tower.flow.held = false ∧
    (let p : Part := { tower with flow := { tower.flow with held := true } }
     LinkOpen 0 (having p) ∧ p.flow.held = true) ∧
    1 < (2 : Byte).toNat ∧ 2 < (3 : Byte).toNat ∧
    (∃ o x, pickOrder picking = some o ∧ picking.flow.issued ≠ some o ∧ o.source = .spindle 0 ∧
      jobOfOrder picking o = some 0 ∧ picking.jobs[(0 : JobNum)] = some x ∧ none ≠ some x.defn.media ∧
      some Media.dvd ≠ some x.defn.media ∧ some Media.cd = some x.defn.media) ∧
    LinkOpen 0 (having picking) ∧ pickOrder tower = none ∧ 0 < 65535 ∧ 65535 < 65536 ∧
    findDisc (withDisc .passed) 1 = some (inBay0 .passed) ∧ findDisc tower 65535 = none := by
  refine ⟨having_open _ rfl _, rfl, ⟨having_open _ rfl _, rfl⟩, by decide, by decide,
    ⟨⟨.pick, 1, .spindle 0, .bay 0, 0⟩, { job .running with defn := { sampleDefn with labelSlot := some 1 } },
      by decide +kernel⟩, having_open _ (by decide +kernel) _, by decide +kernel⟩

theorem witness_PickIsCreated :
    (let x : Job := { job .running with defn := { sampleDefn with labelSlot := some 1 } }
     (∀ o ∈ tower.flow.queue, o.kind ≠ .pick) ∧ tower.flow.held = false ∧
     tower.thermal.ambient.condition ≠ .critical ∧ tower.runList = [] ++ 0 :: [] ∧ tower.jobs[(0 : JobNum)] = some x ∧
     x.state = .running ∧ x.accepted + inFlight tower 0 < x.defn.target ∧ x.picked + boundCount tower 0 < 65535 ∧
     tower.flow.spindles[(0 : SpindleNum)] = some x.defn.media ∧ tower.bays[(0 : BayNum)] = readyBay ∧
     readyBay.present = true ∧ readyBay.enabled = true ∧ readyBay.state = .empty ∧ readyBay.disablePending = false ∧
     readyBay.capability.speed .cd ≠ 0 ∧ tower.thermal.bays[(0 : BayNum)].condition ≠ .critical) ∧
    (∃ o ∈ picking.flow.queue, o.kind = .pick) ∧ (∀ j ∈ awakePart.runList, pickFor awakePart j = none) := by
  refine ⟨by decide +kernel, by decide +kernel, by decide +kernel⟩

theorem witness_DiscsAreRouted :
    (inBay0 .burned).position = .bay 0 ∧ (inTray .printing).position = .tray ∧ (inBay0 .passed).job = some 0 ∧
    tower.jobs[(0 : JobNum)] = some { job .running with defn := { sampleDefn with labelSlot := some 1 } } ∧
    store.jobs[(0 : JobNum)] = some (job .draft) ∧ sampleDefn.labelSlot = none := by decide +kernel

theorem witness_PickIsCreated_ids :
    (∃ d, picking.flow.queue = [] ++ ⟨.pick, 1, .spindle 0, .bay 0, 0⟩ :: [] ∧ findDisc picking 1 = some d ∧
      picking.flow.issued = none ∧ d.job = some 0) ∧
    (∀ o ∈ tower.flow.queue, o.kind ≠ .pick) ∧ issued.flow.issued = some ⟨.pick, 1, .spindle 0, .bay 0, 0⟩ ∧
    1 ≤ picking.flow.nextId ∧ picking.flow.nextId ≤ 65535 ∧ picking.flow.discs.length < 65535 :=
  ⟨⟨⟨1, some 0, .bound, .spindle 0, some (.bay 0), none, none, none, none, none, false, none⟩, by decide +kernel⟩,
    by decide +kernel⟩

/-- The tower with a PRINT_WAIT disc at the head of the wait list, a printer state and a ribbon. -/
def waiting (st : PrinterState) (ribbon : Nat) (short : Bool) : Part := { withDisc .printWait with
  flow := { (withDisc .printWait).flow with waitList := [1], ribbonShort := short }
  printer := { tower.printer with state := st, ribbon := ribbon } }

theorem witness_DiscsAreRouted_conditions :
    (let p := waiting .idle 1000 false
     p.flow.waitList = (inBay0 .printWait).id :: [] ∧ findDisc p 1 = some (inBay0 .printWait) ∧
     (inBay0 .printWait).job = some 0 ∧ (p.jobs[(0 : JobNum)]).map (·.defn.labelSlot) = some (some 1) ∧
     (p.slots[(1 : SlotNum)]).map (·.length) = some 1000 ∧ p.printer.state = .idle ∧
     (∀ e ∈ p.flow.discs, e.position ≠ .tray ∧ e.destination ≠ some .tray) ∧ 1000 ≤ p.printer.ribbon) ∧
    (waiting .pausedRibbon 0 false).printer.state ≠ .idle ∧ (waiting .idle 999 true).flow.ribbonShort = true ∧
    (waiting .idle 999 false).flow.ribbonShort = false ∧ (waiting .idle 999 false).printer.ribbon < 1000 ∧
    tower.flow.waitList = [] ∧ tower.flow.queue = [] ∧ ordered.flow.issued = none ∧ ordered.flow.held = false ∧
    ordered.flow.queue = [toTray] ∧ toTray.target = .tray ∧ toTray.kind ≠ .pick ∧ ordered.flow.moveReady = false ∧
    ({ ordered.flow with moveReady := true } : Flow).moveReady = true := by decide +kernel

/-! ### Bays and the bus -/

theorem witness_BayCommandsActOnOneBay : LinkOpen 0 (having tower) ∧ 9 < (10 : Byte).toNat ∧
    tower.bays[(9 : BayNum)].enabled = true ∧ tower.bays[(9 : BayNum)].state = .empty ∧
    (withDisc .burning).bays[(0 : BayNum)].enabled = true ∧ (withDisc .burning).bays[(0 : BayNum)].state ≠ .empty ∧
    (withDisc .burning).bays[(0 : BayNum)].state ≠ .offline ∧ awakePart.bays[(0 : BayNum)].state = .offline ∧
    ({ readyBay with enabled := false } : Bay).enabled = false :=
  ⟨having_open _ rfl _, by decide +kernel⟩

theorem witness_TimersAndAttentionAskForItems :
    (let p : Part := { tower with
      bays := put tower.bays 9 { readyBay with housekeeping := some 0, probe := some 0 }
      engine := { tower.engine with
        sessions := put tower.engine.sessions 3 (some { streaming with stall := some 0 }) } }
     p.held = false ∧ p.bays[(9 : BayNum)].housekeeping.isSome = true ∧ p.bays[(9 : BayNum)].probe.isSome = true ∧
     (p.engine.sessions[(3 : SessionNum)]).map (·.stall.isSome) = some true ∧ p.bus.list = [] ∧ p.bus.turn.rest = []) ∧
    (Item.statusRead 9 true ∈ ({ tower.bus with list := [.statusRead 9 true, .readyPoll 3] } : Bus).list) ∧
    tower.bus.pollWanted = false ∧ tower.bus.holdOff = none ∧
    ({ tower.bus with holdOff := some 0 } : Bus).holdOff ≠ none ∧
    ({ tower.bus with pollWanted := true } : Bus).pollWanted = true := by decide +kernel

/-- R100: ATTN rises while reads of a poll are to come. A read of the poll that waits holds off another poll; its last
read, under way, does not. -/
theorem test_attn_rises_in_the_last_read :
    let during := fun rest => (partOf (exec .attnRise (having { tower with bus := { tower.bus with
      turn := .round (some ⟨.statusRead 2 true, true, .record⟩) rest } }))).map (·.bus.list)
    during [] = some [.servicePoll] ∧ during [.statusRead 5 true] = some [] ∧
    during [.statusRead 5 false] = some [.servicePoll] := by decide +kernel

theorem witness_ServiceRoundTakesTheList :
    (let p : Part := { polling with bus := { polling.bus with
      turn := .none, list := [.go 3, .readyPoll 1, .servicePoll] } }
     p.held = false ∧ p.bus.turn = .none ∧ p.bus.list ≠ [] ∧ p.bus.afterRound = false ∧
     p.bus.list = [.go 3] ++ .readyPoll 1 :: [.servicePoll] ∧ (∀ x ∈ [Item.go 3], carryOut p x = none) ∧
     carryOut p (.readyPoll 1) = some (some (.listeners [4, 6, 9]), .command .readyPoll)) ∧
    (let p : Part := { tower with bus := { tower.bus with list := [.go 3], afterRound := true } }
     p.bus.list ≠ [] ∧ (∀ e ∈ p.bus.ring, entryEligible p e = false) ∧ ∀ x ∈ p.bus.list, carryOut p x = none) ∧
    (polling.engine.sessions[(1 : SessionNum)]).map (fun x => (x.members.isEmpty, x.slot)) = some (false, 0) ∧
    polling.slots[(0 : SlotNum)] ≠ none ∧ polling.engine.sessions[(0 : SessionNum)] = none ∧
    (∀ need ∈ [Addressing.none, .listeners [], .listeners [4, 6], .talker 9],
      ({ polling with bus := { polling.bus with addressing := need } } : Part).bus.addressing = need ∧
      ({ polling with bus := { polling.bus with addressing := .talker 0 } } : Part).bus.addressing ≠ need) := by
  decide +kernel

/-- A readback of bay 0 at place 1, nothing taken yet. -/
def reading : Readback := ⟨0, 1, 0, 0, 100, 4, 0, true, 0, 0, [], crc32Start, 0, 0, some 10000⟩

/-- A part with a readback in the verifier and a broadcast session, both in the ring. -/
def granting : Part := { polling with
  engine := { polling.engine with sessions := put polling.engine.sessions 1 (some streaming) }
  verifier := { polling.verifier with places := put polling.verifier.places 1 (some reading) }
  bus := { polling.bus with turn := .none, ring := [.broadcast 1, .readback 1], position := some (.broadcast 1) } }

theorem witness_GrantGoesRoundTheRing :
    (granting.held = false ∧ granting.bus.turn = .none ∧ granting.bus.pause = none ∧ granting.bus.list = [] ∧
      granting.bus.ring.Nodup ∧ granting.bus.position = some (.broadcast 1) ∧
      granting.bus.ring = [] ++ .broadcast 1 :: [.readback 1] ∧
      [RingEntry.readback 1, .broadcast 1] = [] ++ .readback 1 :: [.broadcast 1] ∧
      granting.verifier.places[(1 : PlaceNum)] = some reading ∧ reading.taken < reading.blockCount ∧
      reading.held.length < 2) ∧
    (let p : Part := { granting with bus := { granting.bus with position := none } }
     p.bus.position = none ∧ p.bus.ring = [] ++ .broadcast 1 :: [.readback 1] ∧
     p.engine.sessions[(1 : SessionNum)] = some streaming ∧ streaming.state = .streaming ∧
     streaming.cursor < streaming.blockCount ∧ (p.slots[streaming.slot]).map (fun y => y.first + y.chunkCount) = some 1) ∧
    tower.bus.ring = [] ∧ tower.bus.turn = .none ∧ tower.bus.pause = none ∧ tower.bus.list = [] := by decide +kernel

/-- A part with an item of a round on the bus. -/
def onBus (it : Item) (live : Bool) (o : Offer) : Part :=
  { granting with bus := { granting.bus with turn := .round (some ⟨it, live, o⟩) [.servicePoll] } }

theorem witness_BusItemsComplete :
    (∀ x ∈ [(Item.clear 9, BusCommand.clear 9), (.clearAll, .clearAll), (.go 1, .go), (.readyPoll 1, .readyPoll),
        (.servicePoll, .servicePoll)], ∀ live : Bool,
      (onBus x.1 live (.command x.2)).held = false ∧
      (onBus x.1 live (.command x.2)).bus.turn = .round (some ⟨x.1, live, .command x.2⟩) [.servicePoll]) ∧
    (onBus (.statusRead 9 true) true (.command (.statusRead 9))).bus.turn =
      .round (some ⟨.statusRead 9 true, true, .command (.statusRead 9)⟩) [.servicePoll] ∧ Offer.close ≠ .record ∧
    (∀ b : BayNum, (0#16).getLsbD b.val = false) ∧ (0x8#16).getLsbD (3 : BayNum).val = true ∧
    (∀ c, Offer.close ≠ .command c) ∧
    (onBus (.close 1) true .close).bus.turn = .round (some ⟨.close 1, true, .close⟩) [.servicePoll] ∧
    ({ streaming with state := .preparing } : Session).state = .preparing ∧
    ({ streaming with state := .closing } : Session).state = .closing ∧
    (onBus (.readback 1) true (.readback 4)).verifier.places[(1 : PlaceNum)] = some reading := by
  refine ⟨by decide +kernel, by decide +kernel, by decide, by decide +kernel, by decide +kernel, fun c h => (by cases h),
    by decide +kernel, rfl, rfl, by decide +kernel⟩

/-- A session in PRIMING with all of its 4 blocks in, its laggard poll outstanding. -/
def primed : Session := { streaming with state := .priming, cursor := 4, blockCount := 4, laggardPoll := true }

/-- The part of 6.15 with another session 1. -/
def polled (x : Session) : Part := { polling with
  engine := { polling.engine with sessions := put polling.engine.sessions 1 (some x) } }

theorem witness_BusItemsComplete_owners :
    (∀ x ∈ [streaming, primed, { primed with cursor := 3 }],
      (polled x).engine.sessions[(1 : SessionNum)] = some x) ∧
    streaming.state ≠ .priming ∧ primed.state = .priming ∧ primed.cursor = primed.blockCount ∧
    ({ primed with cursor := 3 } : Session).cursor ≠ primed.blockCount ∧ primed.laggardPoll = true ∧
    streaming.laggardPoll = false ∧
    (let late := fun lanes : Lanes => (primed.members.filter fun m => lanes.getLsbD m.bay.val = false).map (·.bay)
     let left := fun lanes => ((dropMembers 1 .laggard true (late lanes)
       (polled { primed with laggardPoll := false })).engine.sessions[(1 : SessionNum)]).map (·.members.map (·.bay))
     left 0#16 = some [] ∧ left 0x50#16 = some [4, 6]) ∧
    (let p : Part := { polled streaming with bus := { polling.bus with turn := .round none [.go 3, .clear 9] } }
     p.bus.turn.rest = [.go 3] ++ .clear 9 :: [] ∧ (∀ x ∈ [Item.go 3], carryOut p x = none) ∧
     carryOut p (.clear 9) = some (none, .command (.clear 9))) ∧
    (∀ x ∈ ({ tower.bus with turn := .round none [.go 3] } : Bus).turn.rest, carryOut tower x = none) := by
  decide +kernel

theorem witness_BlockTransfersEnd :
    (∀ live : Bool, let p : Part := { granting with bus := { granting.bus with turn := .block 1 live 700 [] } }
      p.held = false ∧ p.bus.turn = .block 1 live 700 [] ∧ p.engine.sessions[(1 : SessionNum)] = some streaming) ∧
    (let x := { streaming with state := .priming, cursor := 15 }
     x.state = .priming ∧ x.primeCount = some (x.cursor + 1) ∧ ({ x with cursor := 14 }).primeCount ≠ some (14 + 1)) ∧
    (let x := { streaming with cursor := 999 }
     x.state = .streaming ∧ x.cursor + 1 = x.blockCount ∧ 998 + 1 ≠ x.blockCount) ∧
    (∀ live : Bool, let p : Part := { granting with bus := { granting.bus with turn := .talk 1 live } }
      p.held = false ∧ p.bus.turn = .talk 1 live ∧ p.verifier.places[(1 : PlaceNum)] = some reading) ∧
    (List.replicate 65536 (0 : Byte)).length = 65536 := by
  refine ⟨by decide +kernel, by decide +kernel, by decide +kernel, by decide +kernel, List.length_replicate⟩

theorem witness_BlockTransfersEnd_ring :
    granting.bus.ring.Nodup ∧ granting.bus.ring = [] ++ .broadcast 1 :: [.readback 1] ∧
    granting.bus.position = some (.broadcast 1) ∧ granting.bus.ring = [.broadcast 1] ++ .readback 1 :: [] ∧
    RingEntry.broadcast 0 ∉ granting.bus.ring ∧ granting.bus.position ≠ some (.broadcast 0) ∧
    (let due := fun fruitless : List RingEntry => (∃ r ∈ granting.bus.ring, entryEligible granting r = true) ∧
       ∀ r ∈ granting.bus.ring, entryEligible granting r = true → r ∈ fruitless
     due [.readback 1, .broadcast 1] ∧ ¬ due [.broadcast 1]) := by decide +kernel

theorem witness_ServiceRoundTakesTheList_lines :
    (onBus (.statusRead 9 true) true .record).held = false ∧
    (onBus (.statusRead 9 true) true .record).bus.turn = .round (some ⟨.statusRead 9 true, true, .record⟩) [.servicePoll] ∧
    ({ granting.bus with turn := .talk 1 true } : Bus).turn = .talk 1 true ∧ Part.reset.held = true ∧
    tower.bus.turn = .none ∧ cmdAsserted polling = true ∧ validAsserted polling = true := by decide +kernel

theorem witness_StatusReadsEnd :
    (∀ live polled : Bool, (onBus (.statusRead 9 polled) live .record).held = false ∧
      (onBus (.statusRead 9 polled) live .record).bus.turn =
        .round (some ⟨.statusRead 9 polled, live, .record⟩) [.servicePoll]) ∧
    (∀ polled, Item.statusRead 9 polled ∉ (onBus (.statusRead 9 true) true .record).bus.list ∧
      Item.statusRead 9 polled ∉ [Item.servicePoll]) ∧
    awakePart.bays[(0 : BayNum)].present = false ∧ readyBay.present = true ∧ readyBay.state = .empty ∧
    ({ readyBay with state := .loaded } : Bay).state ≠ .empty := by decide +kernel

/-! ### Burn sets -/

/-- A GATHERING session of job 0 with bay 0. -/
def gathering : Session :=
  ⟨0, 0, .cd, 4, .gathering, [⟨0, false⟩], 0, none, none, some 0, none, none, false, none⟩

/-- A part whose session 3 is `x`, its disc in bay 0 in a state. -/
def inSession (st : DiscState) (x : Session) : Part :=
  { withDisc st with engine := { (withDisc st).engine with sessions := put tower.engine.sessions 3 (some x) } }

theorem witness_GatheringEnds :
    let p := inSession .loaded gathering
    p.held = false ∧ p.engine.sessions[(3 : SessionNum)] = some gathering ∧ gathering.gather.isSome = true ∧
    gathering.state = .gathering ∧ gathering.members ≠ [] ∧
    (∀ m ∈ gathering.members, p.bays[m.bay].capability.speed gathering.media ≠ 0) ∧
    (inSession .burning streaming).engine.sessions[(3 : SessionNum)] = some streaming ∧ streaming.gather = none := by
  decide +kernel

/-- A PREPARING session of one member, its deadline running. -/
def preparing (prepared : Bool) : Session :=
  ⟨0, 0, .cd, 4, .preparing, [⟨0, prepared⟩], 0, none, some 8, none, some 90000, none, false, none⟩

theorem witness_DeadlinesDropMembers :
    (let p := inSession .burning (preparing false)
     p.held = false ∧ p.engine.sessions[(3 : SessionNum)] = some (preparing false) ∧ (preparing false).state = .preparing ∧
     (preparing false).prepare.isSome = true ∧ p.bays[(0 : BayNum)].disc = some 1 ∧
     findDisc p 1 = some (inBay0 .burning) ∧ (inBay0 .burning).state = .burning ∧
     (inBay0 .burning).position = .bay 0 ∧ p.bays[(0 : BayNum)].failures + 1 < 3 ∧
     Item.clear 0 ∉ p.bus.list ++ p.bus.turn.rest) ∧
    (let x := { preparing true with state := .closing, prepare := none, close := some 0 }
     (inSession .burning x).engine.sessions[(3 : SessionNum)] = some x ∧ x.state = .closing ∧ x.close.isSome = true) ∧
    ¬ ({ readyBay with failures := 2 } : Bay).failures + 1 < 3 := by decide +kernel

/-- A part whose bay 0 waits, its LOADED disc of job 0. -/
def waitingBay : Part := { withDisc .loaded with engine := { tower.engine with waiting := [0] } }

/-- The same with all four sessions taken by another course. -/
def crowded : Part := { waitingBay with
  engine := { waitingBay.engine with sessions := Vector.replicate 4 (some streaming) } }

/-- A part whose bays can write nothing. -/
def unfit (p : Part) : Part := { p with bays := p.bays.map fun x => { x with capability := ⟨0, 0, 0⟩ } }

theorem witness_PickReportedDone_placing :
    (let p := inSession .loaded gathering
     p.engine.sessions[(3 : SessionNum)] = some gathering ∧ gathering.state = .gathering ∧ gathering.job = 0 ∧
     (∀ m : SessionNum, m < 3 → p.engine.sessions[m] = none) ∧ (∃ m ∈ gathering.members, m.bay = 0) ∧
     (1 : BayNum) ∉ p.engine.waiting ∧ (∀ m ∈ gathering.members, m.bay ≠ 1) ∧
     (placeIn p 0 1).map (fun x => (judgeFull x.1 x.2).engine.sessions[(3 : SessionNum)].isSome) = some true ∧
     (placeIn (unfit p) 0 1).map (fun x => (judgeFull x.1 x.2).engine.sessions[(3 : SessionNum)]) = some none ∧
     gathering.gather = some 0 ∧ ({ gathering with gather := some 5 } : Session).gather ≠ some 0 ∧
     gathering.members.length ≠ sampleDefn.setSize) ∧
    (∀ n : SessionNum, tower.engine.sessions[n] = none) ∧ (tower.jobs[(0 : JobNum)]).isSome = true ∧
    (tower.slots[sampleDefn.discSlot]).isSome = true ∧ (0 : BayNum) ∈ waitingBay.engine.waiting ∧
    (∀ n : SessionNum, crowded.engine.sessions[n] = some streaming) ∧ streaming.state ≠ .gathering := by
  decide +kernel

theorem witness_GatheringEnds_judgements :
    (let p := inSession .loaded gathering
     let left := fun q : Part => ((dropMembers 3 .calibration false
       ((gathering.members.filter fun m => q.bays[m.bay].capability.speed .cd = 0).map (·.bay))
       q).engine.sessions[(3 : SessionNum)]).map (·.members.length)
     left p = some 1 ∧ left (unfit p) = some 0 ∧ p.bays[(0 : BayNum)].disc = some 1 ∧
     findDisc p 1 = some (inBay0 .loaded) ∧ (inBay0 .loaded).position = .bay 0 ∧
     (∃ x ∈ [gathering], x.state = .gathering ∧ prospect (unfit p) x.job = false) ∧
     (leaveGathering 3 p).engine.sessions[(3 : SessionNum)] ≠ none ∧
     (leaveGathering 3 (unfit p)).engine.sessions[(3 : SessionNum)] = none) ∧
    streaming.state ≠ .gathering ∧ (∀ n : SessionNum, tower.engine.sessions[n] = none) ∧
    findDisc (withDisc .burning) 1 = some (inBay0 .burning) ∧ prospect tower 0 = true := by decide +kernel

theorem witness_DeadlinesDropMembers_ends :
    (let x := { gathering with members := [] }
     (inSession .failed x).engine.sessions[(3 : SessionNum)] = some x ∧ x.members = [] ∧ gathering.members ≠ []) ∧
    (let p := inSession .failed gathering
     p.engine.sessions[(3 : SessionNum)] = some gathering ∧ p.bays[(0 : BayNum)].disc = some 1 ∧
     findDisc p 1 = some (inBay0 .failed)) ∧
    (inBay0 .loaded).state = .loaded ∧ tower.engine.sessions[(3 : SessionNum)] = none ∧ tower.bus.turn = .none ∧
    (∀ t ∈ [Turn.round none [.go 3], .round (some ⟨.go 3, true, .command .go⟩) [], .block 3 true 0 [], .talk 0 true],
      ({ tower.bus with turn := t } : Bus).turn = t) ∧
    (waitingBay.engine.waiting = [] ++ 0 :: [] ∧ waitingBay.bays[(0 : BayNum)].disc = some 1 ∧
      findDisc waitingBay 1 = some (inBay0 .loaded) ∧ (inBay0 .loaded).job = some 0 ∧
      (placeIn waitingBay 0 0).map (·.1) = some 0 ∧ placeIn crowded 0 0 = none) ∧
    (let after := fun p : Part => (placeIn p 0 0).map fun x => prospectLost (judgeFull x.1 x.2) x.1
     after waitingBay = some false ∧
     after { waitingBay with flow := { waitingBay.flow with held := true } } = some true) := by decide +kernel

theorem witness_SessionSpeedIsFixed : [(0 : BayNum), 1, 2] ≠ [] ∧
    (∀ b ∈ [(0 : BayNum), 1, 2], 1 ≤ warmBays.bays[b].capability.speed .dvd ∧
      warmBays.bays[b].capability.speed .dvd ≤ 48) ∧
    (let p : Part := { warmBays with bays := put warmBays.bays 0 { readyBay with capability := ⟨1, 48, 1⟩ } }
     p.bays[(0 : BayNum)].capability.speed .dvd = 48 ∧ p.bays[(0 : BayNum)].capability.speed .cd = 1) := by
  decide +kernel

/-- A record of a drive state and media. -/
def record (st : DriveState) (m : Option Media) : StatusRecord := ⟨st, true, m, 100, 0, none, 16, 16, 16⟩

theorem witness_PreparedRecordsAreJudged :
    (let p := inSession .burning (preparing false)
     sessionOf p 0 = some 3 ∧ p.engine.sessions[(3 : SessionNum)] = some (preparing false) ∧
     (preparing false).state = .preparing ∧ (preparing false).prepare.isSome = true ∧
     (∃ m ∈ (preparing false).members, m.prepared = false)) ∧
    (record .prepared (some .cd)).driveState = .prepared ∧
    (record .prepared (some .cd)).mediaPresent = some (preparing false).media ∧
    (record .prepared none).mediaPresent ≠ some (preparing false).media ∧
    (record .prepareFailed none).driveState = .prepareFailed ∧
    (inSession .burning (preparing true)).engine.sessions[(3 : SessionNum)] = some (preparing true) ∧
    (preparing true).members ≠ [] ∧ ∀ m ∈ (preparing true).members, m.prepared = true := by
  decide +kernel

theorem sessions_once (p : Part) (n : SessionNum) (x : Session) (h : p.engine.sessions[n] = some x)
    (ho : ∀ m : SessionNum, m ≠ n → p.engine.sessions[m] = none) (hn : (x.members.map (·.bay)).Nodup)
    (hw : p.engine.waiting.Nodup) (hx : ∀ c ∈ x.members, c.bay ∉ p.engine.waiting) : BaysOnce p.engine := by
  have all : ∀ (m : SessionNum) (y : Session), p.engine.sessions[m] = some y → m = n ∧ y = x := by
    intro m y hy
    rcases eq_or_ne m n with rfl | hm
    · exact ⟨rfl, Option.some.inj (hy.symm.trans h)⟩
    · rw [ho m hm] at hy; cases hy
  refine ⟨fun m y hy => ?_, fun a b y z hy hz hab => ?_, hw, fun m y hy c hc => ?_⟩
  · rw [(all m y hy).2]; exact hn
  · exact absurd ((all a y hy).1.trans (all b z hz).1.symm) hab
  · rw [(all m y hy).2] at hc; exact hx c hc

/-- The session as CLOSE has been sent. -/
def closing : Session := { preparing true with state := .closing, prepare := none, close := some 300000 }

theorem witness_PreparedRecordsAreJudged_burns :
    BaysOnce (inSession .burning closing).engine ∧
    (inSession .burning closing).engine.sessions[(3 : SessionNum)] = some closing ∧
    (∃ m ∈ closing.members, m.bay = 0) ∧ (∀ m ∈ closing.members, m.bay ≠ 1) ∧
    sessionOf (inSession .burning closing) 0 = some 3 ∧ sessionOf (inSession .burning closing) 1 = none ∧
    closing.state = .closing ∧ closing.close.isSome = true ∧
    (record .burnFailed none).driveState = .burnFailed ∧ (record .burnDone none).driveState = .burnDone ∧
    (inSession .burning closing).bays[(0 : BayNum)].disc = some 1 ∧
    findDisc (inSession .burning closing) 1 = some (inBay0 .burning) ∧ (inBay0 .burning).position = .bay 0 :=
  ⟨sessions_once _ 3 closing (by decide +kernel) (by decide +kernel) (by decide) (by decide) (by decide),
    by decide +kernel⟩

theorem witness_RecordsAreRead_discs :
    (∀ o ∈ tower.flow.queue, o.disc ≠ 1) ∧ ordered.flow.queue = [] ++ toTray :: [] ∧
    toTray.disc = (inBay0 .printWait).id ∧ ordered.flow.issued ≠ some toTray ∧ underway.flow.issued = some toTray ∧
    tower.engine.sessions[(3 : SessionNum)] = none ∧
    (inSession .burning closing).engine.sessions[(3 : SessionNum)] = some closing := by decide +kernel

theorem witness_RecordsAreRead_temperatures : ∀ t ∈ [(-512 : Int), -160, -1, 0, 511], -512 ≤ t ∧ t ≤ 511 := by decide

theorem witness_RecordsAreRead : LinkOpen 0 awake ∧ 3 < (4 : Byte).toNat := ⟨having_open _ rfl _, by decide⟩

/-! ### Verification -/

/-- A part with a readback at place 0, the disc VERIFYING in bay 0. -/
def verifying (r : Readback) : Part := { withDisc .verifying with
  verifier := { tower.verifier with places := put tower.verifier.places 0 (some r) } }

/-- A readback with one block held. -/
def holding (n : Nat) (trailer : Byte) : Readback := { reading with taken := n + 1, processed := n, held := [⟨[], trailer⟩] }

theorem witness_ReadbackIsJudged :
    (∀ t ∈ [(0 : Byte), 254, 255], ∀ n ∈ [0, 2, 3],
      (verifying (holding n t)).held = false ∧
      (verifying (holding n t)).verifier.places[(0 : PlaceNum)] = some (holding n t) ∧
      (holding n t).held = [⟨[], t⟩]) ∧
    ((holding 3 0).processed + 1 = (holding 3 0).blockCount ∧ (holding 2 0).processed + 1 ≠ (holding 2 0).blockCount ∧
      (holding 2 0).processed % 32 ≠ 31) ∧
    (let r := { holding 31 0 with blockCount := 66 }
     r.processed % 32 = 31 ∧ r.processed + 1 ≠ r.blockCount) ∧
    (∃ x, (verifying reading).slots[reading.slot] = some x ∧ x.digests[3 / 32]? = some 7#32) ∧
    (let p := verifying reading
     findDisc p reading.disc = some (inBay0 .verifying) ∧ (inBay0 .verifying).state = .verifying ∧
     reading.silence.isSome = true ∧ (p.jobs[reading.job]).isSome = true) ∧
    ({ reading with silence := none } : Readback).silence = none := by
  refine ⟨by decide +kernel, by decide +kernel, by decide +kernel, ⟨frozenDisc 0 1, by decide +kernel⟩,
    by decide +kernel, rfl⟩

/-- A part with disc 1 in bay 0 in a state, its bay at the head of the verify queue. -/
def queued (st : DiscState) : Part := { withDisc st with verifier := { tower.verifier with queue := [0] } }

theorem witness_ReadbackIsJudged_starts :
    tower.bus.turn = .none ∧
    (∀ t ∈ [Turn.round none [.readback 0], .round (some ⟨.readback 0, true, .readback 4⟩) [], .block 3 true 0 [],
      .talk 0 true], ({ tower.bus with turn := t } : Bus).turn = t) ∧
    (let p := withDisc .burned
     p.bays[(0 : BayNum)].disc = some 1 ∧ findDisc p 1 = some (inBay0 .burned) ∧ (inBay0 .burned).position = .bay 0 ∧
     (inBay0 .burned).job = some 0 ∧ (p.jobs[(0 : JobNum)]).map (·.defn.verify) = some .digest ∧
     ({ sampleDefn with verify := .none } : JobDef).verify = .none) ∧
    (let p := queued .verifyWait
     p.verifier.places[(0 : PlaceNum)] = none ∧ p.verifier.queue = 0 :: [] ∧ p.bays[(0 : BayNum)].disc = some 1 ∧
     findDisc p 1 = some (inBay0 .verifyWait) ∧ (inBay0 .verifyWait).state = .verifyWait ∧
     (p.jobs[(0 : JobNum)]).map (·.defn.discSlot) = some 0 ∧ (p.slots[(0 : SlotNum)]).isSome = true) ∧
    (let p : Part := { queued .verifyWait with
       verifier := { tower.verifier with queue := [0], places := Vector.replicate 2 (some reading) } }
     ∀ k : PlaceNum, p.verifier.places[k] ≠ none) ∧ tower.verifier.queue = [] := by decide +kernel

theorem witness_JobCancelDealsWithDiscs_owners :
    (let p := withDisc .burning
     (p.jobs[(0 : JobNum)]).map (·.state) = some .running ∧
     (p.jobs[(0 : JobNum)]).map (fun x => inFlight (cancelAdmitted 0 x p) 0) = some 1) ∧
    (store.jobs[(2 : JobNum)]).map (fun x => inFlight (cancelAdmitted 2 x store) 2) = some 0 ∧
    (∀ x ∈ [gathering, closing],
      (inSession .failed x).engine.sessions[(3 : SessionNum)] = some x ∧ (∃ m ∈ x.members, m.bay = 0) ∧
      (∀ m : SessionNum, m < 3 → (inSession .failed x).engine.sessions[m] = none)) ∧
    closing.state ≠ .gathering ∧ Item.clear 0 ∉ tower.bus.list ++ tower.bus.turn.rest ∧
    (∀ n : SessionNum, tower.engine.sessions[n] = none) ∧ (∀ k : PlaceNum, tower.verifier.places[k] = none) ∧
    (verifying reading).verifier.places[(0 : PlaceNum)] = some reading ∧ reading.bay = 0 ∧ reading.sent = true ∧
    ({ reading with sent := false } : Readback).sent = false ∧
    Item.clear 0 ∉ (busForgetPlace 0 (verifying reading)).bus.list ++ (busForgetPlace 0 (verifying reading)).bus.turn.rest := by
  decide +kernel

theorem witness_DiscReportsAreCounted_labels :
    (∃ x d y, tower.jobs[(0 : JobNum)] = some x ∧ x.defn.labelSlot = some 1 ∧ (1 : SlotNum) ≠ x.defn.discSlot ∧
      tower.slots[x.defn.discSlot] = some d ∧ 0 < d.refs ∧ tower.slots[(1 : SlotNum)] = some y ∧ 0 < y.refs) ∧
    inFlight tower 0 = 0 ∧ 0 < inFlight (withDisc .burned) 0 ∧
    (job .halting).state = .halting ∧ (job .cancelling).state = .cancelling := by
  refine ⟨⟨{ job .running with defn := { sampleDefn with labelSlot := some 1 } }, frozenDisc 0 1, frozenLabel 1 1, ?_⟩, ?_⟩ <;>
    decide +kernel

/-! ### Label printing -/

/-- A label of slot 1 at a line, nothing printed yet. -/
def labelAt (cursor : Nat) : Label := ⟨1, 1000, 2, cursor, 0, 0⟩

/-- The tower with disc 1 in the tray and its label at a line. -/
def printing (cursor : Nat) : Part := { tower with
  flow := { tower.flow with discs := [inTray .printing], nextId := 2 }
  printer := { tower.printer with
    state := .printing, disc := some 1, status := some .underWay, label := some (labelAt cursor) } }

/-- The printer with a line under way. -/
def firing (pace : Pace) (strobes : List Strobe) : Part := { printing 999 with
  printer := { (printing 999).printer with pace := pace, firing := some ⟨1, strobes⟩ } }

theorem witness_LineBegins :
    let p := printing 999
    p.held = false ∧ p.printer.label = some (labelAt 999) ∧ p.printer.state = .printing ∧ p.printer.firing = none ∧
    p.printer.gap = none ∧ p.slots[(labelAt 999).slot] = some (frozenLabel 1 1) ∧
    (frozenLabel 1 1).first + (frozenLabel 1 1).chunkCount ≤ 16384 ∧ 0 < p.printer.ribbon ∧
    ({ p.printer with ribbon := 0 } : Printer).ribbon = 0 ∧
    (sampleHead 280 p).thermal.head.condition = .critical ∧ (sampleHead 279 p).thermal.head.condition = .high ∧
    (sampleHead 239 p).thermal.head.condition = .normal ∧ (having p).mem = [] := by decide +kernel

theorem witness_LineBegins_memory : Memory.wf [] ∧ Memory.wf [(2097152 + 180 * 720 + 37, 0x08#8)] :=
  ⟨⟨.nil, by simp⟩, ⟨by simp, by simp [unlisted]⟩⟩

/-- 8.12 and R158: one dot of line 720, at column 300, is fired in class 0 for 513 µs. -/
theorem test_line_begin :
    let s := { having (printing 720) with mem := [(2097152 + 180 * 720 + 37, 0x08#8)] }
    (partOf (exec (.lineBegin 180) s)).map (fun p => (p.printer.last, p.printer.firing.map (·.strobes), p.printer.pace)) =
      some (some ⟨180, 3296, 513, 449, 385⟩, some [⟨0, BitVec.twoPow 1440 300, 513⟩], .full) := by decide +kernel

/-- R158, steps 8 and 10: the last line's account, and the label is finished. -/
theorem test_line_fired :
    (partOf (exec .lineFired (having (firing .full [])))).map (fun p =>
      (p.printer.ribbon, p.printer.label.map (·.cursor), p.printer.state, p.flow.queue.map (·.kind))) =
    some (99999, some 1000, .doneWait, [.printerToAccept, .pick]) := by decide +kernel

theorem witness_LinesAndLabelsEnd :
    (∀ x ∈ [(Pace.half, [Strobe.mk 0 1 513]), (.half, []), (.full, [Strobe.mk 0 1 513])],
      (firing x.1 x.2).held = false ∧ (firing x.1 x.2).printer.label = some (labelAt 999) ∧
      (firing x.1 x.2).printer.firing = some ⟨1, x.2⟩ ∧ (firing x.1 x.2).printer.pace = x.1) ∧
    (labelAt 999).cursor + 1 = (labelAt 999).length ∧ (labelAt 998).cursor + 1 ≠ (labelAt 998).length ∧
    (let p : Part := { printing 1000 with printer := { (printing 1000).printer with gap := some 513 } }
     p.held = false ∧ p.printer.label = some (labelAt 1000) ∧ p.printer.gap.isSome = true ∧
     (labelAt 1000).cursor = (labelAt 1000).length) ∧
    (let p := printing 1000
     p.printer.disc = some (inTray .printing).id ∧ findDisc p 1 = some (inTray .printing) ∧
     (inTray .printing).state = .printing ∧ (inTray .printing).position = .tray ∧
     p.printer.status = some .underWay) := by decide +kernel

theorem witness_HeatAndRibbonActOnTheLabel :
    (printing 0).held = false ∧ (printing 0).printer.state = .printing ∧ (printing 0).printer.hot = none ∧
    (printing 0).printer.status = some .underWay ∧ tower.printer.state = .idle ∧ tower.printer.status ≠ some .underWay ∧
    0 < tower.printer.ribbon ∧ tower.printer.disc = none ∧
    (let r : Printer := { (printing 0).printer with state := .pausedHot, hot := some 0 }
     r.hot.isSome = true ∧ r.state = .pausedHot ∧ r.disc ≠ none) ∧
    awakePart.held = false ∧ awakePart.printer.state = .pausedRibbon ∧ awakePart.printer.ribbon = 0 ∧
    ({ tower.printer with state := .doneWait } : Printer).state = .doneWait := by decide +kernel

/-- For the label that is not under way: the printer PAUSED_HOT with an aborted label or with none. -/
theorem witness_HeatAndRibbonActOnTheLabel_cooled :
    (let hot := fun (st : LabelStatus) (d : Option Nat) (n : Nat) => ({ printing 0 with printer :=
       { (printing 0).printer with state := .pausedHot, status := some st, disc := d, ribbon := n } } : Part)
     (hot .aborted (some 1) 0).printer.state = .pausedHot ∧ (hot .aborted (some 1) 0).printer.status ≠ some .underWay ∧
     (hot .aborted (some 1) 0).printer.ribbon = 0 ∧ 0 < (hot .aborted (some 1) 7).printer.ribbon ∧
     (hot .aborted (some 1) 7).printer.disc ≠ none ∧ (hot .aborted none 7).printer.state = .pausedHot ∧
     (hot .aborted none 7).printer.status ≠ some .underWay ∧ (hot .aborted none 7).printer.disc = none ∧
     (hot .underWay (some 1) 7).printer.status = some .underWay) := by decide +kernel

theorem witness_RibbonLoadedIsTaken :
    LinkOpen 0 (having tower) ∧ num32 0xFF 0xFF 0xFF 0xFF = 4294967295 ∧ num32 0xFE 0xFF 0xFF 0xFF ≠ 4294967295 ∧
    LinkOpen 0 (having (printing 0)) ∧ (printing 0).printer.state = .printing ∧ tower.printer.state = .idle ∧
    clampNat 0 4000000 (num32 0 0 0 0) = 0 ∧ awakePart.printer.state = .pausedRibbon ∧ awakePart.printer.disc = none ∧
    LinkOpen 0 (having awakePart) ∧
    (let p : Part := { awakePart with printer := { awakePart.printer with disc := some 1 } }
     LinkOpen 0 (having p) ∧ p.printer.state = .pausedRibbon ∧ p.printer.disc ≠ none) ∧
    (let p : Part := { tower with printer := { tower.printer with state := .doneWait } }
     LinkOpen 0 (having p) ∧ p.printer.state = .doneWait) :=
  ⟨having_open _ rfl _, by decide +kernel, by decide +kernel, having_open _ rfl _, by decide +kernel, by decide +kernel,
    by decide +kernel, by decide +kernel, by decide +kernel, having_open _ rfl _, ⟨having_open _ rfl _, rfl, by decide⟩,
    having_open _ rfl _, rfl⟩

/-! ### Thermal monitor, resets and invariants -/

theorem witness_SamplesAreJudged :
    (LimitPair.mk 503 511).high + 8 ≤ (LimitPair.mk 503 511).critical ∧ awake.part.held = false ∧
    (let p : Part := { printing 0 with thermal := { tower.thermal with head := ⟨some 290, .critical, some 0⟩ } }
     p.held = false ∧ p.thermal.head.condition = .critical ∧
     judge p.thermal.limits.head p.thermal.head.condition 271 = .high) ∧
    awake.part.thermal.head.condition ≠ .critical := by decide +kernel

theorem witness_ThermalLimitsAreSettled : LinkOpen 0 awake ∧ 1024 ≤ num16 0 4 ∧ num16 0 4 ≠ 65535 ∧
    num16 0xFF 0x03 < 1024 ∧ ¬ num16 0xFF 0x01 ≥ 512 ∧ num16 0 2 = 512 :=
  ⟨having_open _ rfl _, by decide⟩

theorem witness_PartLeavesReset : State.reset.part = Part.reset := rfl

/-- Also for StepsNeverStop. -/
theorem witness_StepKeepsImageMemory :
    Memory.wf awake.mem ∧ ExtentsApart awake.part ∧ (∃ t, step awake = .next t) ∧
    ExtentsApart ({ awakePart with slots := put awakePart.slots 0 (filling .disc 16777216 0) } : Part) := by
  have e : ∀ p : Part, (∀ n : SlotNum, n ≠ 0 → p.slots[n] = none) →
      (∀ x, p.slots[(0 : SlotNum)] = some x → x.first + x.chunkCount ≤ 16384) → ExtentsApart p := by
    intro p h h0
    refine ⟨fun n x hx => ?_, fun m n x y hmn hx hy => ?_⟩
    · rcases eq_or_ne n 0 with rfl | hn
      · exact h0 x hx
      · rw [h n hn] at hx; cases hx
    · rcases eq_or_ne m 0 with rfl | hm
      · rw [h n (Ne.symm hmn)] at hy; cases hy
      · rw [h m hm] at hx; cases hx
  refine ⟨⟨.nil, by simp [awake, State.reset]⟩, e _ (by decide +kernel) ?_, ⟨_, rfl⟩, e _ (by decide +kernel) ?_⟩
  · intro x hx; cases hx
  · intro x hx
    have : some (newSlot .disc 16777216 0) = some x := hx
    cases this
    decide +kernel

theorem witness_StepKeepsTheTables :
    placesHeld store = 2 ∧ TwoPlaces store ∧ (∃ t, step (having store) = .next t) ∧ fullRing.ring.length ≤ 64 ∧
    (∀ l : Link, fullRing.links[l].unread ≤ fullRing.ring.length) ∧ (∃ t, step (having fullRing) = .next t) ∧
    (ordered.flow.queue.Pairwise fun a b => a.kind.cls < b.kind.cls ∨ (a.kind.cls = b.kind.cls ∧ a.seq < b.seq)) ∧
    (∀ o ∈ ordered.flow.queue, o.seq < ordered.flow.nextSeq) ∧ ∃ t, step (having ordered) = .next t := by
  have h : placesHeld store = 2 := by decide +kernel
  refine ⟨h, h.le, ⟨_, rfl⟩, by decide +kernel, by decide +kernel, ⟨_, rfl⟩, by decide +kernel, by decide +kernel,
    ⟨_, rfl⟩⟩

theorem witness_StepKeepsTheTables_once :
    RefsCounted tower ∧ (∃ t, step (having tower) = .next t) ∧
    (let p := inSession .burning closing
     OfflineExactly p.bays ∧ RingOnce p.bus.ring ∧ BaysOnce p.engine ∧ p.verifier.queue.Nodup ∧
     ∃ t, step (having p) = .next t) := by
  refine ⟨?_, ⟨_, rfl⟩, ?_, ⟨by decide +kernel, by decide +kernel⟩,
    sessions_once _ 3 closing (by decide +kernel) (by decide +kernel) (by decide) (by decide) (by decide),
    by decide +kernel, ⟨_, rfl⟩⟩
  · have h : ∀ n : SlotNum, (match tower.slots[n] with
        | some s => s.refs == namingsOf tower.jobs n && (s.state != .filling || namingsOf tower.jobs n == 0)
        | none => namingsOf tower.jobs n == 0) = true := by decide +kernel
    intro n
    have := h n
    unfold SlotCounts
    split <;> rename_i e <;> simp only [e] at this <;> simp at this
    · exact ⟨this.1, fun h => (this.2).resolve_left (fun g => g h)⟩
    · exact this
  · intro b; revert b; decide +kernel

theorem witness_StepKeepsSettings : SettingsLegal tower ∧ (∃ t, step (having tower) = .next t) := by
  refine ⟨⟨by decide, by decide, by decide, by decide, by decide, by decide, ?_, by decide, by decide, by decide, ?_, ?_,
    ?_⟩, ⟨_, rfl⟩⟩
  · decide +kernel
  all_goals (unfold LimitPair.legal; decide +kernel)

end Sys2Proof.Tests
end

section
/-!
PROOFS. The checks of R24, which every job command but JOB DEFINE makes before those of its own rule.
-/

namespace Sys2Proof.Machine

/-! ## The record a job command names -/

/-- A refusal carries its reason alone and leaves the part as it was. -/
@[simp] theorem refuse_eq (r : RefusalReason) (p : Part) : refuse r p = (.refused r [], p) := rfl

/-- R24, the first check: whatever the command would do with a job, a number above 11 is refused with RANGE. -/
theorem onJob_numberTooGreat {b : Byte} (h : 11 < b.toNat) (f : JobNum → Job → Part → Response × Part) (p : Part) :
    onJob b f p = (.refused .range [], p) := by
  have hnone : numbered 12 b = none := numbered_none h
  simp only [onJob, hnone, rangeError, refuse_eq]

/-- R24, the second check: whatever the command would do with a job, a free record is refused with STATE. -/
theorem onJob_recordFree {j : JobNum} {p : Part} (h : p.jobs[j] = none) (f : JobNum → Job → Part → Response × Part) :
    onJob (byte j.val) f p = (.refused .state [], p) := by
  have hnum : numbered 12 (byte j.val) = some j := numbered_byte (by decide) j
  simp only [onJob, hnum, h, refuse_eq]

/-! ## The job commands -/

/-- A command whose whole payload is a job number does to the part what its rule does to the job of that number. -/
theorem onJobByte_singleton (b : Byte) (f : JobNum → Job → Part → Response × Part) (p : Part) :
    onJobByte [b] f p = onJob b f p := rfl

/-- JOB AMEND with a whole definition is decided by the record it names. -/
theorem jobAmendBody_cons {bytes : List Byte} (h : bytes.length = 13) (b : Byte) (p : Part) :
    jobAmendBody (b :: bytes) p = onJob b (amendJob bytes) p := by
  simp only [jobAmendBody, h, if_true]

/-- A JOB AMEND with a whole definition completes with what its rule makes of the record it names. -/
theorem jobAmend_completes {l : Link} {b : Byte} {bytes : List Byte} {fill : Nat} {s : State} {r : Response}
    {p : Part} (hopen : LinkOpen l s) (hlen : bytes.length = 13)
    (hjob : onJob b (amendJob bytes) s.part = (r, p)) : Completes .jobAmend l (b :: bytes) fill s r p :=
  linkCommand_completes (f := jobAmendBody (b :: bytes)) hopen (by simp [hlen]) rfl
    ((jobAmendBody_cons hlen b s.part).trans hjob)

/-- A command whose whole payload is a job number completes with what its rule makes of the record it names. -/
theorem jobByteCommand_completes {i : Link → List Byte → Nat → Instr} {l : Link} {b : Byte} {fill : Nat} {s : State}
    {f : JobNum → Job → Part → Response × Part} {r : Response} {p : Part} (hopen : LinkOpen l s)
    (hexec : exec (i l [b] fill) s = linkCommand l [b] fill (onJobByte [b] f) s)
    (hjob : onJob b f s.part = (r, p)) : Completes i l [b] fill s r p :=
  linkCommand_completes hopen (by simp) hexec ((onJobByte_singleton b f s.part).trans hjob)

/-- A refusal of the named record that does not ask what the command would do with the job is the answer of every job
command but JOB DEFINE, and changes nothing. -/
theorem jobCommands_refused {l : Link} {b : Byte} {bytes : List Byte} {fill : Nat} {s : State} {r : RefusalReason}
    (hopen : LinkOpen l s) (hlen : bytes.length = 13) (h : ∀ f, onJob b f s.part = (.refused r [], s.part)) :
    Completes .jobAmend l (b :: bytes) fill s (.refused r []) s.part ∧
      Completes .jobQueue l [b] fill s (.refused r []) s.part ∧
      Completes .jobHalt l [b] fill s (.refused r []) s.part ∧
      Completes .jobResume l [b] fill s (.refused r []) s.part ∧
      Completes .jobCancel l [b] fill s (.refused r []) s.part ∧
      Completes .jobRemove l [b] fill s (.refused r []) s.part ∧
      Completes .jobStatus l [b] fill s (.refused r []) s.part :=
  ⟨jobAmend_completes hopen hlen (h (amendJob bytes)),
    jobByteCommand_completes hopen rfl (h queueJob),
    jobByteCommand_completes hopen rfl (h haltJob),
    jobByteCommand_completes hopen rfl (h resumeJob),
    jobByteCommand_completes hopen rfl (h cancelJob),
    jobByteCommand_completes hopen rfl (h removeJob),
    jobByteCommand_completes hopen rfl (h statusOfJob)⟩

/-- Settles O19: the two checks of R24 look only at the number and at the record, so each command's refusal is theirs. -/
theorem jobNumberIsChecked : Obligations.JobNumberIsChecked := by
  unfold Obligations.JobNumberIsChecked
  intro l b bytes fill s hopen hlen
  refine ⟨fun hgreat => ?range, fun j hb hfree => ?state⟩
  case range => exact jobCommands_refused hopen hlen fun f => onJob_numberTooGreat hgreat f s.part
  case state =>
    subst hb
    exact jobCommands_refused hopen hlen fun f => onJob_recordFree hfree f

end Sys2Proof.Machine
end

section
/-!
PROOFS. The summary byte (R191, 12.1): what each of its bits says, and the summary read that shows it (R192).
-/

namespace Sys2Proof.Machine

/-! ## The bits of the summary byte -/

/-- An indication stands at its own bit of the byte and at no other. -/
theorem indication_getLsbD {k : Nat} (hk : k < 8) (b : Bool) (bit : Nat) :
    (indication b bit).getLsbD k = (decide (bit = k) && b) := by
  cases b with
  | false => simp [indication]
  | true => simp [indication, hk, eq_comm]

/-- Each bit of the summary byte is the indication that 12.1 places there. -/
theorem summaryByte_bits (p : Part) (l : Link) :
    (summaryByte p l).getLsbD 7 = attention p l ∧
    (summaryByte p l).getLsbD 6 = moveAvailable p ∧
    (summaryByte p l).getLsbD 5 = (p.links[l].unread != 0) ∧
    (summaryByte p l).getLsbD 4 = p.links[l].flags.getLsbD 0 ∧
    (summaryByte p l).getLsbD 3 = p.flow.held ∧
    (summaryByte p l).getLsbD 2 = p.strap ∧
    (summaryByte p l).getLsbD 1 = (p.printer.state = .pausedHot || p.printer.state = .pausedRibbon) ∧
    (summaryByte p l).getLsbD 0 = jobDraining p := by
  simp only [summaryByte, BitVec.getLsbD_or, indication_getLsbD, Nat.reduceLT]
  simp [Flag.index]

/-! ## What the computed indications mean -/

/-- A set of flags holds some flag exactly when one of its fourteen bits is set. -/
theorem flagSet_ne_zero_iff (x : FlagSet) : x ≠ 0 ↔ ∃ i, i < 14 ∧ x.getLsbD i = true := by
  refine ⟨fun hne => ?_, ?_⟩
  · by_contra hall
    refine hne (BitVec.eq_of_getLsbD_eq fun i hi => ?_)
    have hclear : x.getLsbD i = false := Bool.eq_false_iff.mpr fun h => hall ⟨i, hi, h⟩
    simpa using hclear
  · rintro ⟨i, -, hset⟩ rfl
    simp at hset

/-- R199: the attention line is asserted exactly while the part is out of reset and the link holds an unmasked flag. -/
theorem attention_iff (p : Part) (l : Link) :
    attention p l = true ↔
      p.held = false ∧ ∃ i, i < 14 ∧ p.links[l].flags.getLsbD i = true ∧ p.links[l].mask.getLsbD i = true := by
  have hflags := flagSet_ne_zero_iff (p.links[l].flags &&& p.links[l].mask)
  simp only [BitVec.getLsbD_and, Bool.and_eq_true] at hflags
  simp only [attention, Bool.and_eq_true, Bool.not_eq_true', bne_iff_ne, hflags]

/-- R61: a MOVE NEXT would return the order issued, or else one of the queue that is eligible. -/
theorem moveAvailable_iff (p : Part) :
    moveAvailable p = true ↔ p.flow.issued.isSome = true ∨ ∃ o ∈ p.flow.queue, eligible p o = true := by
  simp only [moveAvailable, firstEligible, Bool.or_eq_true, List.find?_isSome]

/-- The jobs drain exactly when one of the twelve records holds a job that is HALTING or CANCELLING. -/
theorem jobDraining_iff (p : Part) :
    jobDraining p = true ↔
      ∃ (j : JobNum) (x : Job), p.jobs[j] = some x ∧ (x.state = .halting ∨ x.state = .cancelling) := by
  simp only [jobDraining, List.any_eq_true, Vector.mem_toList_iff, Vector.mem_iff_getElem]
  constructor
  · rintro ⟨record, ⟨i, hi, rfl⟩, hdrains⟩
    cases hrecord : p.jobs[i] with
    | none => simp [hrecord] at hdrains
    | some x => exact ⟨⟨i, hi⟩, x, hrecord, by simpa [hrecord] using hdrains⟩
  · rintro ⟨j, x, hrecord, hdrains⟩
    exact ⟨some x, ⟨j.val, j.isLt, hrecord⟩, by simpa using hdrains⟩

/-! ## The summary read -/

/-- R192: on a link that takes frames, a summary read only replaces what the link's port last clocked out. -/
theorem exec_summaryRead {l : Link} {s : State} (hopen : LinkOpen l s) (sent : Byte) :
    exec (.summaryRead l sent) s =
      .next (setPort l { s.ports[l] with clockedOut := [summaryByte s.part l] } s) :=
  frameEnds_open hopen _

/-- Settles O6: the read writes one port only, and each bit of the byte is an indication whose meaning has a lemma. -/
theorem summaryReadShowsTheByte : Obligations.SummaryReadShowsTheByte := by
  unfold Obligations.SummaryReadShowsTheByte
  refine ⟨fun l sent s hopen => ?read, fun p l => ?bits⟩
  case read =>
    exact ⟨_, exec_summaryRead hopen sent, ⟨rfl, rfl, fun _ => rfl⟩, rfl, put_get_self ..,
      fun _ => put_get_other _ _ _ _⟩
  case bits =>
    obtain ⟨h7, h6, h5, h4, h3, h2, h1, h0⟩ := summaryByte_bits p l
    rw [h7, h6, h5, h4, h3, h2, h1, h0]
    exact ⟨attention_iff p l, moveAvailable_iff p, by simp [Nat.pos_iff_ne_zero], Iff.rfl, Iff.rfl, Iff.rfl, by simp,
      jobDraining_iff p⟩

end Sys2Proof.Machine
end

section
/-!
PROOFS. EVENTS READ (R200): a command that carries no payload and reads the event side of its own link.
-/

namespace Sys2Proof.Machine

/-! ## Commands that carry no payload -/

/-- With nothing in the payload, such a command does to the part what its rule does. -/
@[simp] theorem noPayload_nil (f : Part → Response × Part) (p : Part) : noPayload [] f p = f p := rfl

/-- A command that carries no payload completes with what its rule makes of the part. -/
theorem noPayloadCommand_completes {i : Link → List Byte → Nat → Instr} {l : Link} {fill : Nat} {s : State}
    {f : Part → Response × Part} {r : Response} {p : Part} (hopen : LinkOpen l s)
    (hexec : exec (i l [] fill) s = linkCommand l [] fill (noPayload [] f) s) (hrule : f s.part = (r, p)) :
    Completes i l [] fill s r p :=
  linkCommand_completes hopen (by simp) hexec ((noPayload_nil f s.part).trans hrule)

/-! ## The event side of a link, read -/

/-- R200: the answer is the flags, the mask and the unread count of the link that asks, and the part stays as it was. -/
theorem readEvents_eq (l : Link) (p : Part) :
    readEvents l p =
      (.done (le16 p.links[l].flags.toNat ++ le16 p.links[l].mask.toNat ++ [byte p.links[l].unread]), p) := by
  simp only [readEvents, encFlags]

/-- Settles O9: EVENTS READ is a command without a payload, whose rule gives the part back unchanged. -/
theorem eventsReadShowsTheLink : Obligations.EventsReadShowsTheLink := by
  unfold Obligations.EventsReadShowsTheLink
  intro l fill s hopen
  have hexec : exec (.eventsRead l [] fill) s = linkCommand l [] fill (noPayload [] (readEvents l)) s := rfl
  exact noPayloadCommand_completes hopen hexec (readEvents_eq l s.part)

end Sys2Proof.Machine
end

section
/-!
PROOFS. The event side of the links (R197, R202): no shared operation clears a flag or changes a mask.
-/

namespace Sys2Proof.Machine

/-- From `v` to `w` no link loses a flag and no mask changes, but for the link `own`, where one is given. -/
def EventsStay (own : Option Link) (v w : Vector LinkEvents 3) : Prop :=
  ∀ l : Link, own ≠ some l →
    (∀ i, v[l].flags.getLsbD i = true → w[l].flags.getLsbD i = true) ∧ w[l].mask = v[l].mask

theorem EventsStay.refl (own : Option Link) (v : Vector LinkEvents 3) : EventsStay own v v :=
  fun _ _ => ⟨fun _ h => h, rfl⟩

theorem EventsStay.trans {own : Option Link} {u v w : Vector LinkEvents 3} (h : EventsStay own u v)
    (k : EventsStay own v w) : EventsStay own u w :=
  fun l hl => ⟨fun i hi => (k l hl).1 i ((h l hl).1 i hi), (k l hl).2.trans (h l hl).2⟩

/-- An update of every link that clears no flag and keeps the mask (R197, R205). -/
theorem EventsStay.map {own : Option Link} {v w : Vector LinkEvents 3} (h : EventsStay own v w)
    (f : LinkEvents → LinkEvents)
    (hf : ∀ e : LinkEvents, (∀ i, e.flags.getLsbD i = true → (f e).flags.getLsbD i = true) ∧ (f e).mask = e.mask) :
    EventsStay own v (w.map f) :=
  h.trans fun l _ => by simpa using hf w[l]

/-- A flag is set in every link (R197). -/
@[simp] theorem EventsStay.map_set {own : Option Link} {v w : Vector LinkEvents 3} (f : Flag)
    (h : EventsStay own v w) : EventsStay own v (w.map (LinkEvents.set f)) :=
  h.map _ fun e => ⟨fun i hi => by simp [LinkEvents.set, hi], rfl⟩

/-- An append sets RESULTS_OVERRUN at most (R205). -/
theorem EventsStay.map_afterAppend {own : Option Link} {v w : Vector LinkEvents 3} (full : Bool)
    (h : EventsStay own v w) : EventsStay own v (w.map (LinkEvents.afterAppend full)) := by
  refine h.map _ fun e => ?_
  unfold LinkEvents.afterAppend
  split
  · exact ⟨fun i hi => by simp [LinkEvents.set, hi], rfl⟩
  · exact ⟨fun _ hi => hi, rfl⟩

section
variable {own : Option Link} {es : Vector LinkEvents 3}

@[simp] theorem raiseIf_events (b : Bool) (f : Flag) (p : Part) (h : EventsStay own es p.links) :
    EventsStay own es (raiseIf b f p).links := by
  unfold raiseIf
  (repeat' split) <;> simp [h]

@[simp] theorem dropRef_events (n : SlotNum) (p : Part) (h : EventsStay own es p.links) :
    EventsStay own es (dropRef n p).links := by
  unfold dropRef
  (repeat' split) <;> simp [h]

@[simp] theorem sampleHead_events (v : Int) (p : Part) (h : EventsStay own es p.links) :
    EventsStay own es (sampleHead v p).links := by
  simp [sampleHead, h]

@[simp] theorem sampleAmbient_events (v : Int) (p : Part) (h : EventsStay own es p.links) :
    EventsStay own es (sampleAmbient v p).links := by
  simp [sampleAmbient, h]

@[simp] theorem sampleBay_events (b : BayNum) (v : Int) (p : Part) (h : EventsStay own es p.links) :
    EventsStay own es (sampleBay b v p).links := by
  simp [sampleBay, h]

@[simp] theorem freeBay_events (b : BayNum) (p : Part) (h : EventsStay own es p.links) :
    EventsStay own es (freeBay b p).links := by
  unfold freeBay
  dsimp only
  (repeat' split) <;> simp [h]

@[simp] theorem countFailure_events (b : BayNum) (p : Part) (h : EventsStay own es p.links) :
    EventsStay own es (countFailure b p).links := by
  unfold countFailure
  (repeat' split) <;> simp [h]

@[simp] theorem takeRecord_events (b : BayNum) (r : StatusRecord) (p : Part) (h : EventsStay own es p.links) :
    EventsStay own es (takeRecord b r p).links := by
  unfold takeRecord
  dsimp only
  split <;> split <;>
    simp only [startHousekeeping_keeps, restartHousekeeping_keeps] <;>
    exact sampleBay_events _ _ _ (by simp [h])

@[simp] theorem judgeSilence_events (b : BayNum) (p : Part) (h : EventsStay own es p.links) :
    EventsStay own es (judgeSilence b p).links := by
  unfold judgeSilence
  dsimp only
  (repeat' split) <;> simp [h]

@[simp] theorem leavePlace_events (x : Position) (p : Part) (h : EventsStay own es p.links) :
    EventsStay own es (leavePlace x p).links := by
  unfold leavePlace
  (repeat' split) <;> simp [h]

@[simp] theorem judgeMove_events (p : Part) (h : EventsStay own es p.links) :
    EventsStay own es (judgeMove p).links := by
  simp [judgeMove, h]

@[simp] theorem addOrder_events (k : MoveKind) (id : Nat) (a b : Position) (p : Part)
    (h : EventsStay own es p.links) :
    EventsStay own es (addOrder k id a b p).links := by
  simp [addOrder, h]

@[simp] theorem routeFailed_events (d : Disc) (p : Part) (h : EventsStay own es p.links) :
    EventsStay own es (routeFailed d p).links := by
  unfold routeFailed
  (repeat' split) <;> simp [h]

@[simp] theorem failDisc_events (d : Disc) (w : RejectReason) (p : Part) (h : EventsStay own es p.links) :
    EventsStay own es (failDisc d w p).links := by
  simp [failDisc, h]

@[simp] theorem orphanInBay_events (b : BayNum) (p : Part) (h : EventsStay own es p.links) :
    EventsStay own es (orphanInBay b p).links := by
  simp [orphanInBay, h]

@[simp] theorem withdraw_events (o : Order) (p : Part) (h : EventsStay own es p.links) :
    EventsStay own es (withdraw o p).links := by
  simp [withdraw, h]

@[simp] theorem withdrawPickOf_events (j : JobNum) (p : Part) (h : EventsStay own es p.links) :
    EventsStay own es (withdrawPickOf j p).links := by
  unfold withdrawPickOf
  (repeat' split) <;> simp [h]

@[simp] theorem setJobState_events (j : JobNum) (x : Job) (st : JobState) (w : Option HaltReason) (p : Part)
    (h : EventsStay own es p.links) :
    EventsStay own es (setJobState j x st w p).links := by
  simp [setJobState, h]

@[simp] theorem admitOne_events (p : Part) (h : EventsStay own es p.links) : EventsStay own es
    (admitOne p).links := by
  unfold admitOne
  (repeat' split) <;> simp [h]

@[simp] theorem admitJobs_events (p : Part) (h : EventsStay own es p.links) :
    EventsStay own es (admitJobs p).links := by
  simp [admitJobs, h]

@[simp] theorem releaseRefs_events (x : Job) (p : Part) (h : EventsStay own es p.links) :
    EventsStay own es (releaseRefs x p).links := by
  unfold releaseRefs
  dsimp only
  (repeat' split) <;> simp [h]

@[simp] theorem finishJob_events (j : JobNum) (x : Job) (st : JobState) (p : Part) (h : EventsStay own es p.links) :
    EventsStay own es (finishJob j x st p).links := by
  exact admitJobs_events _ (releaseRefs_events _ _ (by simp [h]))

@[simp] theorem endDrain_events (j : JobNum) (p : Part) (h : EventsStay own es p.links) :
    EventsStay own es (endDrain j p).links := by
  unfold endDrain
  (repeat' split) <;> simp [h]

@[simp] theorem haltRunning_events (j : JobNum) (x : Job) (w : HaltReason) (p : Part)
    (h : EventsStay own es p.links) :
    EventsStay own es (haltRunning j x w p).links := by
  exact endDrain_events _ _ (withdrawPickOf_events _ _ (by simp [h]))

@[simp] theorem report_events (j : Option JobNum) (c : CounterChange) (p : Part) (h : EventsStay own es p.links) :
    EventsStay own es (report j c p).links := by
  unfold report
  dsimp only
  (repeat' split) <;> simp [h]

@[simp] theorem withdrawAndReport_events (o : Order) (p : Part) (h : EventsStay own es p.links) :
    EventsStay own es (withdrawAndReport o p).links := by
  simp [withdrawAndReport, h]

@[simp] theorem judgePick_events (p : Part) (h : EventsStay own es p.links) :
    EventsStay own es (judgePick p).links := by
  unfold judgePick
  dsimp only
  (repeat' split) <;> simp [h]

@[simp] theorem reportDropped_events (b : BayNum) (w : RejectReason) (p : Part) (h : EventsStay own es p.links) :
    EventsStay own es (reportDropped b w p).links := by
  unfold reportDropped
  (repeat' split) <;> simp [h]

@[simp] theorem dropMember_events (n : SessionNum) (b : BayNum) (w : RejectReason) (c : Bool) (p : Part)
    (h : EventsStay own es p.links) :
    EventsStay own es (dropMember n b w c p).links := by
  simp [dropMember, h]

@[simp] theorem dropMembers_events (n : SessionNum) (w : RejectReason) (c : Bool) (bs : List BayNum)
    (p : Part) (h : EventsStay own es p.links) :
    EventsStay own es (dropMembers n w c bs p).links := by
  induction bs generalizing p with
  | nil => exact h
  | cons b bs ih => exact ih _ (dropMember_events n b w c p h)

@[simp] theorem leaveGathering_events (n : SessionNum) (p : Part) (h : EventsStay own es p.links) :
    EventsStay own es (leaveGathering n p).links := by
  unfold leaveGathering
  dsimp only
  (repeat' split) <;> simp [h]

@[simp] theorem judgeFull_events (n : SessionNum) (p : Part) (h : EventsStay own es p.links) :
    EventsStay own es (judgeFull n p).links := by
  unfold judgeFull
  dsimp only
  (repeat' split) <;> simp [h]

@[simp] theorem placeWaiting_events (k : Nat) (p : Part) (h : EventsStay own es p.links) :
    EventsStay own es (placeWaiting k p).links := by
  induction k generalizing p with
  | zero => exact h
  | succ k ih =>
    unfold placeWaiting
    dsimp only
    split
    · exact h
    · split
      · exact h
      · rename_i q hq
        obtain ⟨j, -, hq⟩ := Option.bind_eq_some_iff.mp hq
        have hb : EventsStay own es q.links := by simpa [placeIn_keeps hq] using h
        refine ih _ ?_
        split <;> simp [hb]

@[simp] theorem reap_events (n : SessionNum) (p : Part) (h : EventsStay own es p.links) :
    EventsStay own es (reap n p).links := by
  unfold reap
  dsimp only
  (repeat' split) <;> simp [h]

@[simp] theorem leaveAndReap_events (n : SessionNum) (p : Part) (h : EventsStay own es p.links) :
    EventsStay own es (leaveAndReap n p).links := by
  unfold leaveAndReap
  dsimp only
  (repeat' split) <;> simp [h]

@[simp] theorem placeLoaded_events (b : BayNum) (j : JobNum) (p : Part) (h : EventsStay own es p.links) :
    EventsStay own es (placeLoaded b j p).links := by
  unfold placeLoaded
  split
  · exact h
  · split
    · rename_i q hq
      have hb : EventsStay own es q.links := by simpa [placeIn_keeps hq] using h
      dsimp only
      split <;> simp [hb]
    · exact h

@[simp] theorem laggardResult_events (n : SessionNum) (x : Lanes) (p : Part) (h : EventsStay own es p.links) :
    EventsStay own es (laggardResult n x p).links := by
  unfold laggardResult
  dsimp only
  (repeat' split) <;> simp [h]

@[simp] theorem routePassed_events (d : Disc) (p : Part) (h : EventsStay own es p.links) :
    EventsStay own es (routePassed d p).links := by
  unfold routePassed
  dsimp only
  (repeat' split) <;> simp [h]

@[simp] theorem passDisc_events (d : Disc) (f : Disc → Disc) (p : Part) (h : EventsStay own es p.links) :
    EventsStay own es (passDisc d f p).links := by
  simp [passDisc, h]

@[simp] theorem afterBurned_events (b : BayNum) (p : Part) (h : EventsStay own es p.links) :
    EventsStay own es (afterBurned b p).links := by
  unfold afterBurned
  (repeat' split) <;> simp [h]

@[simp] theorem memberBurned_events (n : SessionNum) (b : BayNum) (k : Nat) (p : Part)
    (h : EventsStay own es p.links) :
    EventsStay own es (memberBurned n b k p).links := by
  unfold memberBurned
  dsimp only
  (repeat' split) <;> simp [h]

@[simp] theorem engineRecord_events (b : BayNum) (r : StatusRecord) (p : Part) (h : EventsStay own es p.links) :
    EventsStay own es (engineRecord b r p).links := by
  unfold engineRecord
  (repeat' split) <;> simp [h]

@[simp] theorem failVerify_events (id : Nat) (w : RejectReason) (f : Disc → Disc) (p : Part)
    (h : EventsStay own es p.links) :
    EventsStay own es (failVerify id w f p).links := by
  unfold failVerify
  (repeat' split) <;> simp [h]

@[simp] theorem endEarly_events (k : PlaceNum) (w : RejectReason) (p : Part) (h : EventsStay own es p.links) :
    EventsStay own es (endEarly k w p).links := by
  unfold endEarly
  dsimp only
  (repeat' split) <;> simp [h]

@[simp] theorem gradeReadback_events (k : PlaceNum) (r : Readback) (p : Part) (h : EventsStay own es p.links) :
    EventsStay own es (gradeReadback k r p).links := by
  unfold gradeReadback
  dsimp only
  (repeat' split) <;> simp [h]

@[simp] theorem processBlock_events (k : PlaceNum) (p : Part) (h : EventsStay own es p.links) :
    EventsStay own es (processBlock k p).links := by
  unfold processBlock
  dsimp only
  (repeat' split) <;> simp [h]

@[simp] theorem pausing_events (f : Printer → Printer) (p : Part) (h : EventsStay own es p.links) :
    EventsStay own es (pausing f p).links := by
  simp [pausing, h]

@[simp] theorem failPrinting_events (p : Part) (h : EventsStay own es p.links) :
    EventsStay own es (failPrinting p).links := by
  unfold failPrinting
  (repeat' split) <;> simp [h]

@[simp] theorem abortLabel_events (st : PrinterState) (p : Part) (h : EventsStay own es p.links) :
    EventsStay own es (abortLabel st p).links := by
  unfold abortLabel
  (repeat' split) <;> simp [h]

@[simp] theorem finishLabel_events (p : Part) (h : EventsStay own es p.links) :
    EventsStay own es (finishLabel p).links := by
  unfold finishLabel
  dsimp only
  (repeat' split) <;> simp [h]

@[simp] theorem lineOver_events (p : Part) (h : EventsStay own es p.links) : EventsStay own es
    (lineOver p).links := by
  unfold lineOver
  (repeat' split) <;> simp [h]

@[simp] theorem trayFreed_events (p : Part) (h : EventsStay own es p.links) :
    EventsStay own es (trayFreed p).links := by
  unfold trayFreed
  dsimp only
  (repeat' split) <;> simp [h]

@[simp] theorem headCooled_events (p : Part) (h : EventsStay own es p.links) :
    EventsStay own es (headCooled p).links := by
  unfold headCooled
  (repeat' split) <;> simp [h]

@[simp] theorem headPeriodic_events (v : Int) (p : Part) (h : EventsStay own es p.links) :
    EventsStay own es (headPeriodic v p).links := by
  unfold headPeriodic
  dsimp only
  (repeat' split) <;> simp [h]

@[simp] theorem judgeWait_events (p : Part) (h : EventsStay own es p.links) :
    EventsStay own es (judgeWait p).links := by
  unfold judgeWait
  (repeat' split) <;> simp [h]

@[simp] theorem judgeGathering_events (k : Nat) (p : Part) (h : EventsStay own es p.links) :
    EventsStay own es (judgeGathering k p).links := by
  induction k generalizing p with
  | zero => exact h
  | succ k ih =>
    unfold judgeGathering
    split
    · exact h
    · exact ih _ (leaveAndReap_events _ p h)

@[simp] theorem settle_events (p : Part) (h : EventsStay own es p.links) : EventsStay own es (settle p).links := by
  exact judgeMove_events _ (judgeGathering_events _ _ (judgePick_events _ (judgeWait_events _ h)))

end

end Sys2Proof.Machine
end

section
/-!
PROOFS. The move queue (R59): every shared operation keeps it in class order and by creation sequence within a class.
-/

namespace Sys2Proof.Machine

/-- A queue in class order and by creation sequence within a class, all its sequence numbers below `next` (R59). -/
def OrderedQueue (q : List Order) (next : Nat) : Prop :=
  q.Pairwise (fun a b => a.kind.cls < b.kind.cls ∨ (a.kind.cls = b.kind.cls ∧ a.seq < b.seq)) ∧ ∀ o ∈ q, o.seq < next

theorem queueOrdered_iff (p : Part) : QueueOrdered p ↔ OrderedQueue p.flow.queue p.flow.nextSeq := Iff.rfl

/-- Orders may leave the queue. -/
theorem OrderedQueue.filter {q : List Order} {next : Nat} (h : OrderedQueue q next) (keep : Order → Bool) :
    OrderedQueue (q.filter keep) next :=
  ⟨h.1.filter keep, fun o ho => h.2 o (List.mem_filter.1 ho).1⟩

/-- A new order takes the next sequence number and its place behind its equals (R59). -/
theorem OrderedQueue.enqueue {q : List Order} {next : Nat} (h : OrderedQueue q next) (kind : MoveKind) (id : Nat)
    (source target : Position) :
    OrderedQueue (Machine.enqueue ⟨kind, id, source, target, next⟩ q) (next + 1) := by
  have hback : ∀ b ∈ q.filter fun x => kind.cls < x.kind.cls, b ∈ q ∧ kind.cls < b.kind.cls := by simp
  have hfront : ∀ a ∈ q.filter fun x => x.kind.cls ≤ kind.cls, a ∈ q ∧ a.kind.cls ≤ kind.cls := by simp
  refine ⟨?_, fun o ho => ?_⟩
  · refine List.pairwise_append.2 ⟨h.1.filter _, List.pairwise_cons.2 ⟨fun b hb => ?_, h.1.filter _⟩, ?_⟩
    · exact .inl (hback b hb).2
    · intro a ha b hb
      obtain ⟨haq, hle⟩ := hfront a ha
      rcases List.mem_cons.1 hb with rfl | hb
      · rcases Nat.lt_or_eq_of_le hle with hlt | heq
        · exact .inl hlt
        · exact .inr ⟨heq, h.2 a haq⟩
      · exact .inl (Nat.lt_of_le_of_lt hle (hback b hb).2)
  · rcases List.mem_append.1 ho with ho | ho
    · exact Nat.lt_succ_of_lt (h.2 o (hfront o ho).1)
    · rcases List.mem_cons.1 ho with rfl | ho
      · exact Nat.lt_succ_self _
      · exact Nat.lt_succ_of_lt (h.2 o (hback o ho).1)

/-! ## Operations that leave the queue as it is -/

@[simp] theorem removeDisc_queue (id : Nat) (p : Part) :
    (removeDisc id p).flow.queue = p.flow.queue ∧ (removeDisc id p).flow.nextSeq = p.flow.nextSeq := by
  simp [removeDisc]

@[simp] theorem insertDisc_queue (d : Disc) (p : Part) :
    (insertDisc d p).flow.queue = p.flow.queue ∧ (insertDisc d p).flow.nextSeq = p.flow.nextSeq := by
  simp [insertDisc]

@[simp] theorem createDisc_queue (f : Nat → Disc) (p : Part) :
    (createDisc f p).flow.queue = p.flow.queue ∧ (createDisc f p).flow.nextSeq = p.flow.nextSeq := by
  simp [createDisc]

@[simp] theorem enterState_queue (d : Disc) (st : DiscState) (f : Disc → Disc) (p : Part) :
    (enterState d st f p).flow.queue = p.flow.queue ∧ (enterState d st f p).flow.nextSeq = p.flow.nextSeq := by
  simp [enterState]

@[simp] theorem judgeMove_queue (p : Part) :
    (judgeMove p).flow.queue = p.flow.queue ∧ (judgeMove p).flow.nextSeq = p.flow.nextSeq := by
  simp [judgeMove]

@[simp] theorem markFailed_queue (d : Disc) (w : RejectReason) (p : Part) :
    (markFailed d w p).flow.queue = p.flow.queue ∧ (markFailed d w p).flow.nextSeq = p.flow.nextSeq := by
  simp [markFailed]

@[simp] theorem burnMembers_queue (n : SessionNum) (bs : List BayNum) (p : Part) :
    (burnMembers n bs p).flow.queue = p.flow.queue ∧ (burnMembers n bs p).flow.nextSeq = p.flow.nextSeq := by
  induction bs generalizing p with
  | nil => simp [burnMembers]
  | cons b bs ih =>
    unfold burnMembers
    simp only [ih]
    (repeat' split) <;> simp

@[simp] theorem startOne_queue (p : Part) :
    (startOne p).flow.queue = p.flow.queue ∧ (startOne p).flow.nextSeq = p.flow.nextSeq := by
  unfold startOne
  dsimp only
  (repeat' split) <;> simp

@[simp] theorem startReadbacks_queue (p : Part) :
    (startReadbacks p).flow.queue = p.flow.queue ∧ (startReadbacks p).flow.nextSeq = p.flow.nextSeq := by
  simp [startReadbacks]

@[simp] theorem removeReadback_queue (k : PlaceNum) (p : Part) :
    (removeReadback k p).flow.queue = p.flow.queue ∧ (removeReadback k p).flow.nextSeq = p.flow.nextSeq := by
  simp [removeReadback]

/-! ## Operations that keep the queue in order -/

@[simp] theorem addOrder_ordered (kind : MoveKind) (id : Nat) (a b : Position) (p : Part)
    (h : OrderedQueue p.flow.queue p.flow.nextSeq) :
    OrderedQueue (addOrder kind id a b p).flow.queue (addOrder kind id a b p).flow.nextSeq := by
  simpa [addOrder] using h.enqueue kind id a b

@[simp] theorem dropOrder_ordered (o : Order) (p : Part)
    (h : OrderedQueue p.flow.queue p.flow.nextSeq) :
    OrderedQueue (dropOrder o p).flow.queue (dropOrder o p).flow.nextSeq := by
  exact h.filter _

@[simp] theorem routeFailed_ordered (d : Disc) (p : Part)
    (h : OrderedQueue p.flow.queue p.flow.nextSeq) :
    OrderedQueue (routeFailed d p).flow.queue (routeFailed d p).flow.nextSeq := by
  unfold routeFailed
  (repeat' split) <;> simp [h]

@[simp] theorem failDisc_ordered (d : Disc) (w : RejectReason) (p : Part)
    (h : OrderedQueue p.flow.queue p.flow.nextSeq) :
    OrderedQueue (failDisc d w p).flow.queue (failDisc d w p).flow.nextSeq := by
  simp [failDisc, h]

@[simp] theorem orphanInBay_ordered (b : BayNum) (p : Part)
    (h : OrderedQueue p.flow.queue p.flow.nextSeq) :
    OrderedQueue (orphanInBay b p).flow.queue (orphanInBay b p).flow.nextSeq := by
  simp [orphanInBay, h]

@[simp] theorem withdraw_ordered (o : Order) (p : Part)
    (h : OrderedQueue p.flow.queue p.flow.nextSeq) :
    OrderedQueue (withdraw o p).flow.queue (withdraw o p).flow.nextSeq := by
  simp [withdraw, h]

@[simp] theorem withdrawPickOf_ordered (j : JobNum) (p : Part)
    (h : OrderedQueue p.flow.queue p.flow.nextSeq) :
    OrderedQueue (withdrawPickOf j p).flow.queue (withdrawPickOf j p).flow.nextSeq := by
  unfold withdrawPickOf
  (repeat' split) <;> simp [h]

@[simp] theorem haltRunning_ordered (j : JobNum) (x : Job) (w : HaltReason) (p : Part)
    (h : OrderedQueue p.flow.queue p.flow.nextSeq) :
    OrderedQueue (haltRunning j x w p).flow.queue (haltRunning j x w p).flow.nextSeq := by
  simp [haltRunning, h]

@[simp] theorem report_ordered (j : Option JobNum) (c : CounterChange) (p : Part)
    (h : OrderedQueue p.flow.queue p.flow.nextSeq) :
    OrderedQueue (report j c p).flow.queue (report j c p).flow.nextSeq := by
  unfold report
  dsimp only
  (repeat' split) <;> simp [h]

@[simp] theorem withdrawAndReport_ordered (o : Order) (p : Part)
    (h : OrderedQueue p.flow.queue p.flow.nextSeq) :
    OrderedQueue (withdrawAndReport o p).flow.queue (withdrawAndReport o p).flow.nextSeq := by
  simp [withdrawAndReport, h]

@[simp] theorem judgePick_ordered (p : Part)
    (h : OrderedQueue p.flow.queue p.flow.nextSeq) :
    OrderedQueue (judgePick p).flow.queue (judgePick p).flow.nextSeq := by
  unfold judgePick
  dsimp only
  (repeat' split) <;> simp [h]

@[simp] theorem reportDropped_ordered (b : BayNum) (w : RejectReason) (p : Part)
    (h : OrderedQueue p.flow.queue p.flow.nextSeq) :
    OrderedQueue (reportDropped b w p).flow.queue (reportDropped b w p).flow.nextSeq := by
  unfold reportDropped
  (repeat' split) <;> simp [h]

@[simp] theorem dropMember_ordered (n : SessionNum) (b : BayNum) (w : RejectReason) (c : Bool) (p : Part)
    (h : OrderedQueue p.flow.queue p.flow.nextSeq) :
    OrderedQueue (dropMember n b w c p).flow.queue (dropMember n b w c p).flow.nextSeq := by
  simp [dropMember, h]

@[simp] theorem dropMembers_ordered (n : SessionNum) (w : RejectReason) (c : Bool) (bs : List BayNum) (p : Part)
    (h : OrderedQueue p.flow.queue p.flow.nextSeq) :
    OrderedQueue (dropMembers n w c bs p).flow.queue (dropMembers n w c bs p).flow.nextSeq := by
  induction bs generalizing p with
  | nil => exact h
  | cons b bs ih => exact ih _ (dropMember_ordered n b w c p h)

@[simp] theorem leaveGathering_ordered (n : SessionNum) (p : Part)
    (h : OrderedQueue p.flow.queue p.flow.nextSeq) :
    OrderedQueue (leaveGathering n p).flow.queue (leaveGathering n p).flow.nextSeq := by
  unfold leaveGathering
  dsimp only
  (repeat' split) <;> simp [h]

@[simp] theorem judgeFull_ordered (n : SessionNum) (p : Part)
    (h : OrderedQueue p.flow.queue p.flow.nextSeq) :
    OrderedQueue (judgeFull n p).flow.queue (judgeFull n p).flow.nextSeq := by
  unfold judgeFull
  dsimp only
  (repeat' split) <;> simp [h]

@[simp] theorem placeWaiting_ordered (k : Nat) (p : Part)
    (h : OrderedQueue p.flow.queue p.flow.nextSeq) :
    OrderedQueue (placeWaiting k p).flow.queue (placeWaiting k p).flow.nextSeq := by
  induction k generalizing p with
  | zero => exact h
  | succ k ih =>
    unfold placeWaiting
    dsimp only
    split
    · exact h
    · split
      · exact h
      · rename_i q hq
        obtain ⟨j, -, hq⟩ := Option.bind_eq_some_iff.mp hq
        have hb : OrderedQueue q.flow.queue q.flow.nextSeq := by simpa [placeIn_keeps hq] using h
        refine ih _ ?_
        split <;> simp [hb]

@[simp] theorem reap_ordered (n : SessionNum) (p : Part)
    (h : OrderedQueue p.flow.queue p.flow.nextSeq) :
    OrderedQueue (reap n p).flow.queue (reap n p).flow.nextSeq := by
  unfold reap
  dsimp only
  (repeat' split) <;> simp [h]

@[simp] theorem leaveAndReap_ordered (n : SessionNum) (p : Part)
    (h : OrderedQueue p.flow.queue p.flow.nextSeq) :
    OrderedQueue (leaveAndReap n p).flow.queue (leaveAndReap n p).flow.nextSeq := by
  unfold leaveAndReap
  dsimp only
  (repeat' split) <;> simp [h]

@[simp] theorem placeLoaded_ordered (b : BayNum) (j : JobNum) (p : Part)
    (h : OrderedQueue p.flow.queue p.flow.nextSeq) :
    OrderedQueue (placeLoaded b j p).flow.queue (placeLoaded b j p).flow.nextSeq := by
  unfold placeLoaded
  split
  · exact h
  · split
    · rename_i q hq
      have hb : OrderedQueue q.flow.queue q.flow.nextSeq := by simpa [placeIn_keeps hq] using h
      dsimp only
      split <;> simp [hb]
    · exact h

@[simp] theorem laggardResult_ordered (n : SessionNum) (x : Lanes) (p : Part)
    (h : OrderedQueue p.flow.queue p.flow.nextSeq) :
    OrderedQueue (laggardResult n x p).flow.queue (laggardResult n x p).flow.nextSeq := by
  unfold laggardResult
  dsimp only
  (repeat' split) <;> simp [h]

@[simp] theorem routePassed_ordered (d : Disc) (p : Part)
    (h : OrderedQueue p.flow.queue p.flow.nextSeq) :
    OrderedQueue (routePassed d p).flow.queue (routePassed d p).flow.nextSeq := by
  unfold routePassed
  dsimp only
  (repeat' split) <;> simp [h]

@[simp] theorem passDisc_ordered (d : Disc) (f : Disc → Disc) (p : Part)
    (h : OrderedQueue p.flow.queue p.flow.nextSeq) :
    OrderedQueue (passDisc d f p).flow.queue (passDisc d f p).flow.nextSeq := by
  simp [passDisc, h]

@[simp] theorem afterBurned_ordered (b : BayNum) (p : Part)
    (h : OrderedQueue p.flow.queue p.flow.nextSeq) :
    OrderedQueue (afterBurned b p).flow.queue (afterBurned b p).flow.nextSeq := by
  unfold afterBurned
  (repeat' split) <;> simp [h]

@[simp] theorem memberBurned_ordered (n : SessionNum) (b : BayNum) (k : Nat) (p : Part)
    (h : OrderedQueue p.flow.queue p.flow.nextSeq) :
    OrderedQueue (memberBurned n b k p).flow.queue (memberBurned n b k p).flow.nextSeq := by
  unfold memberBurned
  dsimp only
  (repeat' split) <;> simp [h]

@[simp] theorem engineRecord_ordered (b : BayNum) (r : StatusRecord) (p : Part)
    (h : OrderedQueue p.flow.queue p.flow.nextSeq) :
    OrderedQueue (engineRecord b r p).flow.queue (engineRecord b r p).flow.nextSeq := by
  unfold engineRecord
  (repeat' split) <;> simp [h]

@[simp] theorem failVerify_ordered (id : Nat) (w : RejectReason) (f : Disc → Disc) (p : Part)
    (h : OrderedQueue p.flow.queue p.flow.nextSeq) :
    OrderedQueue (failVerify id w f p).flow.queue (failVerify id w f p).flow.nextSeq := by
  unfold failVerify
  (repeat' split) <;> simp [h]

@[simp] theorem endEarly_ordered (k : PlaceNum) (w : RejectReason) (p : Part)
    (h : OrderedQueue p.flow.queue p.flow.nextSeq) :
    OrderedQueue (endEarly k w p).flow.queue (endEarly k w p).flow.nextSeq := by
  unfold endEarly
  dsimp only
  (repeat' split) <;> simp [h]

@[simp] theorem gradeReadback_ordered (k : PlaceNum) (r : Readback) (p : Part)
    (h : OrderedQueue p.flow.queue p.flow.nextSeq) :
    OrderedQueue (gradeReadback k r p).flow.queue (gradeReadback k r p).flow.nextSeq := by
  unfold gradeReadback
  dsimp only
  (repeat' split) <;> simp [h]

@[simp] theorem processBlock_ordered (k : PlaceNum) (p : Part)
    (h : OrderedQueue p.flow.queue p.flow.nextSeq) :
    OrderedQueue (processBlock k p).flow.queue (processBlock k p).flow.nextSeq := by
  unfold processBlock
  dsimp only
  (repeat' split) <;> simp [h]

@[simp] theorem failPrinting_ordered (p : Part)
    (h : OrderedQueue p.flow.queue p.flow.nextSeq) :
    OrderedQueue (failPrinting p).flow.queue (failPrinting p).flow.nextSeq := by
  unfold failPrinting
  (repeat' split) <;> simp [h]

@[simp] theorem abortLabel_ordered (st : PrinterState) (p : Part)
    (h : OrderedQueue p.flow.queue p.flow.nextSeq) :
    OrderedQueue (abortLabel st p).flow.queue (abortLabel st p).flow.nextSeq := by
  unfold abortLabel
  (repeat' split) <;> simp [h]

@[simp] theorem finishLabel_ordered (p : Part)
    (h : OrderedQueue p.flow.queue p.flow.nextSeq) :
    OrderedQueue (finishLabel p).flow.queue (finishLabel p).flow.nextSeq := by
  unfold finishLabel
  dsimp only
  (repeat' split) <;> simp [h]

@[simp] theorem lineOver_ordered (p : Part)
    (h : OrderedQueue p.flow.queue p.flow.nextSeq) :
    OrderedQueue (lineOver p).flow.queue (lineOver p).flow.nextSeq := by
  unfold lineOver
  (repeat' split) <;> simp [h]

@[simp] theorem judgeWait_ordered (p : Part)
    (h : OrderedQueue p.flow.queue p.flow.nextSeq) :
    OrderedQueue (judgeWait p).flow.queue (judgeWait p).flow.nextSeq := by
  unfold judgeWait
  (repeat' split) <;> simp [h]

@[simp] theorem judgeGathering_ordered (k : Nat) (p : Part)
    (h : OrderedQueue p.flow.queue p.flow.nextSeq) :
    OrderedQueue (judgeGathering k p).flow.queue (judgeGathering k p).flow.nextSeq := by
  induction k generalizing p with
  | zero => exact h
  | succ k ih =>
    unfold judgeGathering
    split
    · exact h
    · exact ih _ (leaveAndReap_ordered _ p h)

@[simp] theorem settle_ordered (p : Part)
    (h : OrderedQueue p.flow.queue p.flow.nextSeq) :
    OrderedQueue (settle p).flow.queue (settle p).flow.nextSeq := by
  simpa [settle] using judgeGathering_ordered gatheringFuel _ (judgePick_ordered _ (judgeWait_ordered _ h))

end Sys2Proof.Machine
end

section
/-!
PROOFS. Admission places and the results ring: what the shared operations of the scheduler do to them (R29, R203, R204).
-/

namespace Sys2Proof.Machine

/-! ## Admission places (R29) -/

/-- The admission places that an entry of the job table holds: one or none. -/
def placesOf : Option Job → Nat
  | some j => if j.state.holdsPlace then 1 else 0
  | none => 0

/-- The places held are those of the entries taken together. -/
theorem placesHeld_eq_sum (p : Part) : placesHeld p = (p.jobs.toList.map placesOf).sum := by
  unfold placesHeld
  induction p.jobs.toList with
  | nil => rfl
  | cons x xs ih =>
    cases x with
    | none => simpa [placesOf, List.filter_cons] using ih
    | some j => cases hj : j.state.holdsPlace <;> simp_all [placesOf, Nat.add_comm]

/-- The places held after one job record was replaced. -/
theorem placesHeld_setJob (j : JobNum) (x : Option Job) (p : Part) :
    placesHeld (setJob j x p) + placesOf p.jobs[j] = placesHeld p + placesOf x := by
  have := sum_map_set placesOf p.jobs.toList j.val (by simp) x
  simpa [placesHeld_eq_sum, put, Vector.toList_set] using this

/-- Only the job table matters. -/
theorem TwoPlaces.congr {p q : Part} (h : TwoPlaces p) (hj : q.jobs = p.jobs) : TwoPlaces q := by
  simpa [TwoPlaces, placesHeld, hj] using h

/-- A job record is replaced by one that holds no more places. -/
theorem TwoPlaces.setJob {p : Part} (h : TwoPlaces p) (j : JobNum) (x : Option Job)
    (hx : placesOf x ≤ placesOf p.jobs[j]) : TwoPlaces (setJob j x p) := by
  have := placesHeld_setJob j x p
  unfold TwoPlaces at *
  omega

/-- A job changes to a state that holds a place only if the job held one before. -/
theorem TwoPlaces.setJobState {p : Part} (h : TwoPlaces p) (j : JobNum) (x : Job) (st : JobState)
    (w : Option HaltReason) (hx : st.holdsPlace = true → placesOf p.jobs[j] = 1) :
    TwoPlaces (setJobState j x st w p) := by
  refine (h.setJob j (some { x with state := st, haltReason := w }) ?_).congr (by simp)
  by_cases hst : st.holdsPlace = true
  · simp [placesOf, hst] at hx ⊢
    omega
  · simp [placesOf, hst]

/-- Admission gives a place away only while fewer than two are held (R29). -/
theorem admitOne_places {p : Part} (h : TwoPlaces p) : TwoPlaces (admitOne p) := by
  unfold admitOne
  split
  · rename_i hfree
    split
    · rename_i j _
      split
      · rename_i x _
        have hcount := placesHeld_setJob j (some { x with state := .running, haltReason := none }) p
        have hone : placesOf (some { x with state := .running, haltReason := none }) = 1 := rfl
        have hheld : placesHeld (Machine.setJobState j x .running none p) =
            placesHeld (Machine.setJob j (some { x with state := .running, haltReason := none }) p) := rfl
        unfold TwoPlaces
        omega
      · exact h
    · exact h
  · exact h

theorem admitJobs_places {p : Part} (h : TwoPlaces p) : TwoPlaces (admitJobs p) := admitOne_places (admitOne_places h)

theorem finishJob_places {p : Part} (h : TwoPlaces p) (j : JobNum) (x : Job) (st : JobState)
    (hst : st.holdsPlace = false) : TwoPlaces (finishJob j x st p) :=
  admitJobs_places ((h.setJobState j x st none (by simp [hst])).congr (by simp))

theorem endDrain_places {p : Part} (h : TwoPlaces p) (j : JobNum) : TwoPlaces (endDrain j p) := by
  unfold endDrain
  split
  · split
    · split
      · exact admitJobs_places (h.setJobState _ _ _ _ (by simp [JobState.holdsPlace]))
      · exact finishJob_places h _ _ _ rfl
      · exact h
    · exact h
  · exact h

theorem haltRunning_places {p : Part} (h : TwoPlaces p) (j : JobNum) (x : Job) (w : HaltReason)
    (hx : p.jobs[j] = some x) (hr : x.state = .running) : TwoPlaces (haltRunning j x w p) :=
  endDrain_places ((h.setJobState j x .halting (some w)
    (by simp [hx, placesOf, hr, JobState.holdsPlace])).congr (by simp)) j

theorem reported_places {p : Part} (h : TwoPlaces p) (j : JobNum) (y : Job) (c : CounterChange)
    (hy : p.jobs[j] = some y) : TwoPlaces (reported j y c p) := by
  unfold reported
  split
  · exact finishJob_places h j y .done rfl
  · split
    · rename_i hc
      simp only [Bool.and_eq_true, decide_eq_true_eq] at hc
      obtain ⟨⟨⟨_, hrun⟩, _⟩, _⟩ := hc
      exact haltRunning_places h j y _ hy hrun
    · exact endDrain_places h j

/-- A report for a job that is held: its counters, and then what R31 to R34 make of them. -/
theorem report_some {j : JobNum} {p : Part} {x : Job} (hx : p.jobs[j] = some x) (c : CounterChange) :
    report (some j) c p =
      reported j { x with
          picked := x.picked + c.picked, accepted := x.accepted + c.accepted, rejected := x.rejected + c.rejected } c
        (setJob j (some { x with
          picked := x.picked + c.picked, accepted := x.accepted + c.accepted, rejected := x.rejected + c.rejected })
          p) := by
  simp only [report, hx, reported]

/-- A report that names no job that is held does nothing. -/
theorem report_none {job : Option JobNum} {p : Part} (h : ∀ j, job = some j → p.jobs[j] = none) (c : CounterChange) :
    report job c p = p := by
  cases job with
  | none => rfl
  | some j => simp only [report, h j rfl]

theorem report_places {p : Part} (h : TwoPlaces p) (job : Option JobNum) (c : CounterChange) :
    TwoPlaces (report job c p) := by
  cases job with
  | none => exact h
  | some j =>
    cases hx : p.jobs[j] with
    | none => rwa [report_none (by simpa using hx)]
    | some x =>
      rw [report_some hx]
      exact reported_places (h.setJob j _ (by simp [hx, placesOf])) j _ c (setJob_get j _ p)

/-! ## The results ring (R203 to R205) -/

/-- Only the ring and the unread counts matter. -/
theorem RingBounded.congr {p q : Part} (h : RingBounded p) (hr : q.ring = p.ring)
    (hu : q.links.map LinkEvents.unread = p.links.map LinkEvents.unread) : RingBounded q := by
  refine ⟨hr ▸ h.1, fun l => ?_⟩
  have hl : q.links[l].unread = p.links[l].unread := by
    simpa using congrArg (fun v : Vector Nat 3 => v[l]) hu
  rw [hr, hl]
  exact h.2 l

/-- The unread count of a link after an append (R205). -/
theorem afterAppend_unread (full : Bool) (e : LinkEvents) :
    (e.afterAppend full).unread = if full = true ∧ 64 ≤ e.unread then 64 else e.unread + 1 := by
  unfold LinkEvents.afterAppend
  simp only [Bool.and_eq_true, decide_eq_true_eq]
  split <;> rfl

/-- The length of the ring after an append (R203). -/
theorem appendResult_length (x : ResultEntry) (p : Part) :
    (appendResult x p).ring.length = if 64 ≤ p.ring.length then 64 else p.ring.length + 1 := by
  by_cases hfull : 64 ≤ p.ring.length
  · have hsize : Config.ringSize = 64 := rfl
    simp only [appendResult, hfull, decide_true, if_true, List.length_append, List.length_drop, List.length_singleton]
    omega
  · simp only [appendResult, hfull, decide_false, Bool.false_eq_true, if_false, List.length_append,
      List.length_singleton]

/-- An append drops the oldest entry of a full ring, and a full ring bounds the unread count (R203, R205). -/
theorem appendResult_bounded {p : Part} (x : ResultEntry) (h : RingBounded p) : RingBounded (appendResult x p) := by
  obtain ⟨hlen, hunread⟩ := h
  refine ⟨by rw [appendResult_length]; split <;> omega, fun l => ?_⟩
  have hl : (appendResult x p).links[l].unread = _ :=
    (congrArg LinkEvents.unread (Vector.getElem_map _ l.isLt)).trans
      (afterAppend_unread (decide (64 ≤ p.ring.length)) p.links[l])
  have := hunread l
  rw [appendResult_length, hl]
  simp only [decide_eq_true_eq]
  (repeat' split) <;> omega

end Sys2Proof.Machine
end

section
/-!
PROOFS. What every operation keeps, said once as a relation between the part before and after: the events of the links,
and each condition that the steps keep. Relations of this kind chain, so that a command's is put together from those of
the operations it is made of.
-/

namespace Sys2Proof.Machine

-- The tactic blocks of the default arguments below would each take a thread of their own.
set_option Elab.async false

/-! ## The ribbon -/

@[simp] theorem startLabel_ribbon (d : Disc) (p : Part) : (startLabel d p).printer.ribbon = p.printer.ribbon := rfl

@[simp] theorem notPrinted_ribbon (id : Nat) (p : Part) : (notPrinted id p).printer.ribbon = p.printer.ribbon := rfl

@[simp] theorem abortLabel_ribbon (st : PrinterState) (p : Part) :
    (abortLabel st p).printer.ribbon = p.printer.ribbon := by
  unfold abortLabel
  split <;> simp

@[simp] theorem finishLabel_ribbon (p : Part) : (finishLabel p).printer.ribbon = p.printer.ribbon := by
  unfold finishLabel
  dsimp only
  (repeat' split) <;> simp

@[simp] theorem lineOver_ribbon (p : Part) : (lineOver p).printer.ribbon = p.printer.ribbon := by
  unfold lineOver
  (repeat' split) <;> simp

@[simp] theorem trayFreed_ribbon (p : Part) : (trayFreed p).printer.ribbon = p.printer.ribbon := by
  unfold trayFreed
  dsimp only
  (repeat' split) <;> simp

@[simp] theorem headCooled_ribbon (p : Part) : (headCooled p).printer.ribbon = p.printer.ribbon := by
  unfold headCooled
  (repeat' split) <;> simp

@[simp] theorem headPeriodic_ribbon (v : Int) (p : Part) :
    (headPeriodic v p).printer.ribbon = p.printer.ribbon := by
  unfold headPeriodic
  dsimp only
  split <;> simp

/-! ## The relation -/

/-- `q` comes of `p` by operations that clear no flag and change no mask, but for the link `own` where one is given, and
that keep each condition of the model's tables and settings. -/
structure Steady (own : Option Link) (p q : Part) : Prop where
  events : EventsStay own p.links q.links
  queue : OrderedQueue p.flow.queue p.flow.nextSeq → OrderedQueue q.flow.queue q.flow.nextSeq
  offline : OfflineExactly p.bays → OfflineExactly q.bays
  ring : RingOnce p.bus.ring → RingOnce q.bus.ring
  bays : BaysOnce p.engine → BaysOnce q.engine
  verify : p.verifier.queue.Nodup → q.verifier.queue.Nodup
  places : TwoPlaces p → TwoPlaces q
  results : RingBounded p → RingBounded q
  refs : RefsCounted p → RefsCounted q
  extents : ExtentsApart p → ExtentsApart q
  settings : SettingsLegal p → SettingsLegal q

theorem Steady.refl (own : Option Link) (p : Part) : Steady own p p :=
  ⟨.refl _ _, id, id, id, id, id, id, id, id, id, id⟩

theorem Steady.trans {own : Option Link} {p q r : Part} (h : Steady own p q) (k : Steady own q r) :
    Steady own p r :=
  ⟨h.events.trans k.events, k.queue ∘ h.queue, k.offline ∘ h.offline, k.ring ∘ h.ring, k.bays ∘ h.bays,
    k.verify ∘ h.verify, k.places ∘ h.places, k.results ∘ h.results, k.refs ∘ h.refs, k.extents ∘ h.extents,
    k.settings ∘ h.settings⟩

/-- The settings are in their ranges where they are the ones before and the ribbon has not grown. -/
theorem SettingsLegal.congr {p q : Part} (h : SettingsLegal p) (burn : q.engine.settings = p.engine.settings)
    (grades : q.verifier.limits = p.verifier.limits) (print : q.printer.settings = p.printer.settings)
    (strobe : q.printer.strobe = p.printer.strobe) (ribbon : q.printer.ribbon ≤ p.printer.ribbon)
    (thermal : q.thermal.limits = p.thermal.limits) : SettingsLegal q where
  gather := burn ▸ h.gather
  prime := burn ▸ h.prime
  stall := burn ▸ h.stall
  grades := grades ▸ h.grades
  radii := print ▸ h.radii
  coefficient := print ▸ h.coefficient
  multipliers := print ▸ h.multipliers
  strobes := print ▸ h.strobes
  base := strobe ▸ h.base
  ribbon := ribbon.trans h.ribbon
  head := thermal ▸ h.head
  ambient := thermal ▸ h.ambient
  bay := thermal ▸ h.bay

/-- Only the slots matter. -/
theorem ExtentsApart.congr {p q : Part} (h : ExtentsApart p) (hs : q.slots = p.slots) : ExtentsApart q := by
  simpa only [ExtentsApart, hs] using h

@[simp] theorem EventsStay.rfl' (own : Option Link) (v : Vector LinkEvents 3) : EventsStay own v v := .refl own v

/-- The relation holds of an operation that writes neither a job, a slot, the results ring nor a setting, where the
rest is known to be kept. -/
theorem Steady.quiet {own : Option Link} {p q : Part}
    (events : EventsStay own p.links q.links := by simp)
    (queue : OrderedQueue p.flow.queue p.flow.nextSeq → OrderedQueue q.flow.queue q.flow.nextSeq := by
      intro h; simp [h])
    (offline : OfflineExactly p.bays → OfflineExactly q.bays := by intro h; simp [h])
    (ring : RingOnce p.bus.ring → RingOnce q.bus.ring := by intro h; simp [h])
    (bays : BaysOnce p.engine → BaysOnce q.engine := by intro h; simp [h])
    (verify : p.verifier.queue.Nodup → q.verifier.queue.Nodup := by intro h; simp [h])
    (jobs : q.jobs = p.jobs := by simp) (slots : q.slots = p.slots := by simp) (results : q.ring = p.ring := by simp)
    (unread : q.links.map LinkEvents.unread = p.links.map LinkEvents.unread := by simp)
    (burn : q.engine.settings = p.engine.settings := by simp)
    (grades : q.verifier.limits = p.verifier.limits := by simp)
    (print : q.printer.settings = p.printer.settings := by simp)
    (strobe : q.printer.strobe = p.printer.strobe := by simp)
    (ribbon : q.printer.ribbon ≤ p.printer.ribbon := by simp)
    (thermal : q.thermal.limits = p.thermal.limits := by simp) : Steady own p q where
  events := events
  queue := queue
  offline := offline
  ring := ring
  bays := bays
  verify := verify
  places h := h.congr jobs
  results h := h.congr results unread
  refs h := h.congr slots jobs
  extents h := h.congr slots
  settings h := h.congr burn grades print strobe ribbon thermal

section
variable {own : Option Link}

/-! ## Shared operations -/

theorem raise_steady (f : Flag) (p : Part) : Steady own p (raise f p) := .quiet

theorem raiseIf_steady (b : Bool) (f : Flag) (p : Part) : Steady own p (raiseIf b f p) := .quiet

theorem ask_steady (i : Item) (p : Part) : Steady own p (ask i p) := .quiet

theorem goOn_steady (p : Part) : Steady own p (goOn p) := .quiet

theorem itemOff_steady (p : Part) : Steady own p (itemOff p) := .quiet

theorem judgePoll_steady (attn : Bool) (p : Part) : Steady own p (judgePoll attn p) := .quiet

theorem endFruitless_steady (e : RingEntry) (p : Part) : Steady own p (endFruitless e p) := .quiet

theorem endMoved_steady (p : Part) : Steady own p (endMoved p) := .quiet

theorem setTurn_steady (t : Turn) (p : Part) : Steady own p (setTurn t p) := .quiet

theorem settle_steady (p : Part) : Steady own p (settle p) := .quiet

theorem addOrder_steady (k : MoveKind) (id : Nat) (a b : Position) (p : Part) :
    Steady own p (addOrder k id a b p) := .quiet

theorem failDisc_steady (d : Disc) (w : RejectReason) (p : Part) : Steady own p (failDisc d w p) := .quiet

theorem markFailed_steady (d : Disc) (w : RejectReason) (p : Part) : Steady own p (markFailed d w p) := .quiet

theorem modDisc_steady (id : Nat) (f : Disc → Disc) (p : Part) : Steady own p (modDisc id f p) := .quiet

theorem removeDisc_steady (id : Nat) (p : Part) : Steady own p (removeDisc id p) := .quiet

theorem createDisc_steady (f : Nat → Disc) (p : Part) : Steady own p (createDisc f p) := .quiet

theorem judgeMove_steady (p : Part) : Steady own p (judgeMove p) := .quiet

theorem dropOrder_steady (o : Order) (p : Part) : Steady own p (dropOrder o p) := .quiet

theorem leavePlace_steady (x : Position) (p : Part) : Steady own p (leavePlace x p) := .quiet

theorem withdraw_steady (o : Order) (p : Part) : Steady own p (withdraw o p) := .quiet

theorem withdrawPickOf_steady (j : JobNum) (p : Part) : Steady own p (withdrawPickOf j p) := .quiet

theorem orphanInBay_steady (b : BayNum) (p : Part) : Steady own p (orphanInBay b p) := .quiet

theorem takeRecord_steady (b : BayNum) (r : StatusRecord) (p : Part) : Steady own p (takeRecord b r p) := .quiet

theorem judgeSilence_steady (b : BayNum) (p : Part) : Steady own p (judgeSilence b p) := .quiet

theorem sampleHead_steady (v : Int) (p : Part) : Steady own p (sampleHead v p) := .quiet

theorem sampleAmbient_steady (v : Int) (p : Part) : Steady own p (sampleAmbient v p) := .quiet

theorem modSession_steady (n : SessionNum) (f : Session → Session) (p : Part)
    (hf : ∀ x : Session, (f x).members.map (·.bay) = x.members.map (·.bay)) : Steady own p (modSession n f p) :=
  .quiet (bays := fun h => modSession_once n f p h fun x => by simp [hf])

theorem removeMember_steady (n : SessionNum) (b : BayNum) (p : Part) : Steady own p (removeMember n b p) := .quiet

theorem askClear_steady (w : Bool) (b : BayNum) (p : Part) : Steady own p (askClear w b p) := .quiet

theorem dropMember_steady (n : SessionNum) (b : BayNum) (w : RejectReason) (c : Bool) (p : Part) :
    Steady own p (dropMember n b w c p) := .quiet

theorem dropMembers_steady (n : SessionNum) (w : RejectReason) (c : Bool) (bs : List BayNum) (p : Part) :
    Steady own p (dropMembers n w c bs p) := .quiet

theorem reap_steady (n : SessionNum) (p : Part) : Steady own p (reap n p) := .quiet

theorem leaveAndReap_steady (n : SessionNum) (p : Part) : Steady own p (leaveAndReap n p) := .quiet

theorem placeLoaded_steady (b : BayNum) (j : JobNum) (p : Part) : Steady own p (placeLoaded b j p) := .quiet

theorem judgePrepared_steady (n : SessionNum) (p : Part) : Steady own p (judgePrepared n p) := .quiet

theorem sessionAccepted_steady (n : SessionNum) (p : Part) : Steady own p (sessionAccepted n p) := .quiet

theorem sessionYielded_steady (n : SessionNum) (p : Part) : Steady own p (sessionYielded n p) := .quiet

theorem goSent_steady (n : SessionNum) (p : Part) : Steady own p (goSent n p) := .quiet

theorem laggardResult_steady (n : SessionNum) (x : Lanes) (p : Part) : Steady own p (laggardResult n x p) := .quiet

theorem engineRecord_steady (b : BayNum) (r : StatusRecord) (p : Part) : Steady own p (engineRecord b r p) := .quiet

theorem startReadbacks_steady (p : Part) : Steady own p (startReadbacks p) := .quiet

theorem processBlock_steady (k : PlaceNum) (p : Part) : Steady own p (processBlock k p) := .quiet

theorem endEarly_steady (k : PlaceNum) (w : RejectReason) (p : Part) : Steady own p (endEarly k w p) := .quiet

theorem handBlock_steady (k : PlaceNum) (x : HeldBlock) (p : Part) : Steady own p (handBlock k x p) := .quiet

theorem readbackSent_steady (k : PlaceNum) (p : Part) : Steady own p (readbackSent k p) := .quiet

theorem startLabel_steady (d : Disc) (p : Part) : Steady own p (startLabel d p) := .quiet

theorem notPrinted_steady (id : Nat) (p : Part) : Steady own p (notPrinted id p) := .quiet

theorem pausing_steady (f : Printer → Printer) (p : Part) (hs : (f p.printer).settings = p.printer.settings)
    (ht : (f p.printer).strobe = p.printer.strobe) (hr : (f p.printer).ribbon ≤ p.printer.ribbon) :
    Steady own p (pausing f p) := .quiet (print := by simpa) (strobe := by simpa) (ribbon := by simpa)

theorem modPrinter_steady (f : Printer → Printer) (p : Part) (hs : (f p.printer).settings = p.printer.settings)
    (ht : (f p.printer).strobe = p.printer.strobe) (hr : (f p.printer).ribbon ≤ p.printer.ribbon) :
    Steady own p (modPrinter f p) := .quiet (print := by simpa) (strobe := by simpa) (ribbon := by simpa)

theorem abortLabel_steady (st : PrinterState) (p : Part) : Steady own p (abortLabel st p) := .quiet

theorem lineOver_steady (p : Part) : Steady own p (lineOver p) := .quiet

theorem trayFreed_steady (p : Part) : Steady own p (trayFreed p) := .quiet

theorem headPeriodic_steady (v : Int) (p : Part) : Steady own p (headPeriodic v p) := .quiet

theorem modBay_steady (b : BayNum) (f : Bay → Bay) (p : Part)
    (hf : OfflineExactly p.bays → ((f p.bays[b]).state = .offline ↔ (f p.bays[b]).present = false)) :
    Steady own p (modBay b f p) := .quiet (offline := fun h => modBay_offline b f p h (hf h))

/-! ## The operations of the scheduler -/

/-- An operation that writes jobs and slots, where what concerns these is known. -/
theorem Steady.working {p q : Part}
    (events : EventsStay own p.links q.links := by simp)
    (queue : OrderedQueue p.flow.queue p.flow.nextSeq → OrderedQueue q.flow.queue q.flow.nextSeq := by
      intro h; simp [h])
    (offline : OfflineExactly p.bays → OfflineExactly q.bays := by intro h; simp [h])
    (places : TwoPlaces p → TwoPlaces q) (refs : RefsCounted p → RefsCounted q)
    (extents : ExtentsApart p → ExtentsApart q)
    (bus : q.bus = p.bus := by simp) (engine : q.engine = p.engine := by simp)
    (verifier : q.verifier = p.verifier := by simp) (printer : q.printer = p.printer := by simp)
    (thermal : q.thermal = p.thermal := by simp) (results : q.ring = p.ring := by simp)
    (unread : q.links.map LinkEvents.unread = p.links.map LinkEvents.unread := by simp) : Steady own p q where
  events := events
  queue := queue
  offline := offline
  ring h := bus ▸ h
  bays h := engine ▸ h
  verify h := verifier ▸ h
  places := places
  results h := h.congr results unread
  refs := refs
  extents := extents
  settings h := h.congr (by rw [engine]) (by rw [verifier]) (by rw [printer]) (by rw [printer]) (by rw [printer])
    (by rw [thermal])

end

end Sys2Proof.Machine
end

section
/-!
PROOFS. The extents of the slots (R1, R2), and what the reports to the scheduler keep.
-/

namespace Sys2Proof.Machine

/-! ## Extents -/

/-- Two slots' records have the same place and length in image memory. -/
def Slot.sameExtent (x y : Slot) : Prop := y.first = x.first ∧ y.chunkCount = x.chunkCount

/-- A slot may become EMPTY. -/
theorem ExtentsApart.empty {p : Part} (h : ExtentsApart p) (n : SlotNum) : ExtentsApart (setSlot n none p) := by
  obtain ⟨hin, hapart⟩ := h
  refine ⟨fun m x hx => ?_, fun m k x y hmk hx hy => ?_⟩
  · simp only [setSlot_keeps, put_get] at hx
    split at hx
    · cases hx
    · exact hin m x hx
  · simp only [setSlot_keeps, put_get] at hx hy
    split at hx
    · cases hx
    · split at hy
      · cases hy
      · exact hapart m k x y hmk hx hy

/-- A slot may take a record whose extent is within image memory and apart from those of the other slots. -/
theorem ExtentsApart.fill {p : Part} (h : ExtentsApart p) (n : SlotNum) (z : Slot)
    (hz : z.first + z.chunkCount ≤ Config.chunks)
    (hoff : ∀ (m : SlotNum) (x : Slot), m ≠ n → p.slots[m] = some x →
      x.first + x.chunkCount ≤ z.first ∨ z.first + z.chunkCount ≤ x.first) : ExtentsApart (setSlot n (some z) p) := by
  obtain ⟨hin, hapart⟩ := h
  refine ⟨fun m x hx => ?_, fun m k x y hmk hx hy => ?_⟩
  · simp only [setSlot_keeps, put_get] at hx
    split at hx
    · cases hx
      exact hz
    · exact hin m x hx
  · simp only [setSlot_keeps, put_get] at hx hy
    split at hx
    · subst_vars
      cases hx
      rw [if_neg hmk] at hy
      exact (hoff k y hmk.symm hy).symm
    · split at hy
      · subst_vars
        cases hy
        exact hoff m x hmk hx
      · exact hapart m k x y hmk hx hy

/-- A slot's record may change where its extent stays. -/
theorem ExtentsApart.update {p : Part} (h : ExtentsApart p) (n : SlotNum) (x z : Slot) (hx : p.slots[n] = some x)
    (hz : x.sameExtent z) : ExtentsApart (setSlot n (some z) p) := by
  obtain ⟨hfirst, hcount⟩ := hz
  refine h.fill n z ?_ fun m y hmn hy => ?_
  · rw [hfirst, hcount]
    exact h.1 n x hx
  · rw [hfirst, hcount]
    exact h.2 m n y x hmn hy hx

theorem takeRef_extents {p : Part} (h : ExtentsApart p) (n : SlotNum) : ExtentsApart (takeRef n p) := by
  unfold takeRef
  split
  · rename_i x hx
    exact h.update n x _ hx ⟨rfl, rfl⟩
  · exact h

theorem dropRef_extents {p : Part} (h : ExtentsApart p) (n : SlotNum) : ExtentsApart (dropRef n p) := by
  unfold dropRef
  split
  · rename_i x hx
    split
    · exact (h.empty n).congr (by simp)
    · exact h.update n x _ hx ⟨rfl, rfl⟩
  · exact h

theorem releaseRefs_extents {p : Part} (h : ExtentsApart p) (x : Job) : ExtentsApart (releaseRefs x p) := by
  unfold releaseRefs
  dsimp only
  split
  · exact dropRef_extents (dropRef_extents h _) _
  · exact dropRef_extents h _

theorem finishJob_extents {p : Part} (h : ExtentsApart p) (j : JobNum) (x : Job) (st : JobState) :
    ExtentsApart (finishJob j x st p) := by
  have hs : ExtentsApart { setJobState j x st none p with
      runList := (setJobState j x st none p).runList.filter (· ≠ j) } := h.congr (by simp)
  exact (releaseRefs_extents hs x).congr (by simp only [finishJob, admitJobs_keeps])

theorem endDrain_extents {p : Part} (h : ExtentsApart p) (j : JobNum) : ExtentsApart (endDrain j p) := by
  unfold endDrain
  split
  · split
    · split
      · exact h.congr (by simp)
      · exact finishJob_extents h _ _ _
      · exact h
    · exact h
  · exact h

theorem haltRunning_extents {p : Part} (h : ExtentsApart p) (j : JobNum) (x : Job) (w : HaltReason) :
    ExtentsApart (haltRunning j x w p) :=
  endDrain_extents (h.congr (by simp)) j

theorem reported_extents {p : Part} (h : ExtentsApart p) (j : JobNum) (y : Job) (c : CounterChange) :
    ExtentsApart (reported j y c p) := by
  unfold reported
  split
  · exact finishJob_extents h j y _
  · split
    · exact haltRunning_extents h j y _
    · exact endDrain_extents h j

theorem report_extents {p : Part} (h : ExtentsApart p) (job : Option JobNum) (c : CounterChange) :
    ExtentsApart (report job c p) := by
  cases job with
  | none => exact h
  | some j =>
    cases hx : p.jobs[j] with
    | none => rwa [report_none (by simpa using hx)]
    | some x =>
      rw [report_some hx]
      exact reported_extents (h.congr (by simp)) j _ c

/-! ## What the operations of the scheduler keep -/

section
variable {own : Option Link}

theorem report_steady (job : Option JobNum) (c : CounterChange) (p : Part) : Steady own p (report job c p) :=
  .working (places := fun h => report_places h job c) (refs := fun h => report_refs h job c)
    (extents := fun h => report_extents h job c)

theorem withdrawAndReport_steady (o : Order) (p : Part) : Steady own p (withdrawAndReport o p) :=
  (withdraw_steady o p).trans (report_steady _ _ _)

theorem endDrain_steady (j : JobNum) (p : Part) : Steady own p (endDrain j p) :=
  .working (places := fun h => endDrain_places h j) (refs := fun h => endDrain_refs h j)
    (extents := fun h => endDrain_extents h j)

theorem admitJobs_steady (p : Part) : Steady own p (admitJobs p) :=
  .working (places := admitJobs_places) (refs := admitJobs_refs) (extents := fun h => h.congr (by simp))

theorem haltRunning_steady (j : JobNum) (x : Job) (w : HaltReason) (p : Part) (hx : p.jobs[j] = some x)
    (hr : x.state = .running) : Steady own p (haltRunning j x w p) :=
  .working (places := fun h => haltRunning_places h j x w hx hr) (refs := fun h => haltRunning_refs h j x w hx hr)
    (extents := fun h => haltRunning_extents h j x w)

/-- A listed job becomes DONE or CANCELLED. -/
theorem finishJob_steady (j : JobNum) (x : Job) (st : JobState) (p : Part) (hx : p.jobs[j] = some x)
    (hl : x.state.listed = true) (hst : st.listed = false) : Steady own p (finishJob j x st p) :=
  .working
    (places := fun h => finishJob_places h j x st
      (Bool.eq_false_iff.2 fun hp => by simp [holdsPlace_listed hp] at hst))
    (refs := fun h => finishJob_refs h j x st hx hl hst) (extents := fun h => finishJob_extents h j x st)

/-- A job changes state within the listed ones or within the others, and takes no admission place it had not. -/
theorem setJobState_steady (j : JobNum) (x : Job) (st : JobState) (w : Option HaltReason) (p : Part)
    (hx : p.jobs[j] = some x) (hl : st.listed = x.state.listed)
    (hp : st.holdsPlace = true → x.state.holdsPlace = true) : Steady own p (setJobState j x st w p) :=
  .working (places := fun h => h.setJobState j x st w fun hst => by simp [hx, placesOf, hp hst])
    (refs := fun h => setJobState_counted h j x st w hx hl) (extents := fun h => h.congr (by simp))

end

end Sys2Proof.Machine
end

section
/-!
PROOFS. What the commands of the image store and of the scheduler keep.
-/

namespace Sys2Proof.Machine

/-! ## Searches -/

/-- What the search of a table finds meets the test. -/
theorem lowest_meets {α : Type} {n : Nat} {v : Vector α n} {test : α → Bool} {i : Fin n}
    (h : lowest v test = some i) : test v[i] = true := by
  simpa using List.find?_some h

/-- The lowest free entry of a table is free. -/
theorem lowest_isNone {α : Type} {n : Nat} {v : Vector (Option α) n} {i : Fin n}
    (h : lowest v Option.isNone = some i) : v[i] = none := by
  simpa using lowest_meets h

/-- A run that meets no extent is apart from each. -/
theorem runFree_apart {slots : Vector (Option Slot) 8} {c n : Nat} (h : runFree slots c n = true) (m : SlotNum)
    (x : Slot) (hx : slots[m] = some x) : x.first + x.chunkCount ≤ c ∨ c + n ≤ x.first := by
  have hm : some x ∈ slots.toList := by
    rw [← hx, Vector.mem_toList_iff]
    exact Vector.getElem_mem m.isLt
  simpa using List.all_eq_true.1 h _ hm

/-- What first fit gives lies in image memory and meets no extent (R2). -/
theorem firstFitFrom_fits {slots : Vector (Option Slot) 8} {n c : Nat} (fuel start : Nat)
    (h : firstFitFrom slots n fuel start = some c) : c + n ≤ Config.chunks ∧ runFree slots c n = true := by
  induction fuel generalizing start with
  | zero => cases h
  | succ fuel ih =>
    unfold firstFitFrom at h
    split at h
    · cases h
    · split at h
      · cases h
        exact ⟨by omega, by assumption⟩
      · exact ih (start + 1) h

section
variable {own : Option Link}

/-- What a command leaves is settled (R51, R54, R57, R61, R118). -/
theorem Steady.settle {p q : Part} (h : Steady own p q) : Steady own p (Machine.settle q) := h.trans (settle_steady q)

/-! ## The image store -/

/-- A slot's record may be replaced where its reference count and its extent are right. -/
theorem setSlot_steady (n : SlotNum) (x : Option Slot) (p : Part)
    (hrefs : SlotCounts p.slots[n] (namingsOf p.jobs n) → SlotCounts x (namingsOf p.jobs n))
    (hext : ExtentsApart p → ExtentsApart (setSlot n x p)) : Steady own p (setSlot n x p) :=
  .working (places := fun h => h.congr (by simp))
    (refs := fun h => (h.off.setSlot n x (hrefs (h n)) fun _ _ => rfl).counted) (extents := hext)

theorem openSlot_steady (k : ImageKind) (length : Nat) (p : Part) : Steady own p (openSlot k length p).2 := by
  unfold openSlot
  split
  · exact .refl _ _
  · rename_i n hn
    split
    · exact .refl _ _
    · rename_i c hc
      obtain ⟨hin, hfree⟩ := firstFitFrom_fits _ _ hc
      have hnone := lowest_isNone hn
      refine (setSlot_steady n (some (newSlot k length c)) p ?_ fun h => ?_).trans (raise_steady _ _)
      · rw [hnone]
        exact fun h => ⟨h.symm, fun _ => h⟩
      · exact h.fill n _ hin fun m x _ hx => runFree_apart hfree m x hx

theorem imageOpenBody_steady (payload : List Byte) (p : Part) : Steady own p (imageOpenBody payload p).2 := by
  unfold imageOpenBody
  split
  · split
    · split
      · exact openSlot_steady _ _ p
      · exact .refl _ _
    · exact .refl _ _
  · exact .refl _ _

/-- A command that names a slot does what its rule does to a slot, or nothing. -/
theorem onSlot_steady {payload : List Byte} {f : SlotNum → Part → Response × Part} {p : Part}
    (h : ∀ n, Steady own p (f n p).2) : Steady own p (onSlot payload f p).2 := by
  unfold onSlot
  split
  · split
    · exact h _
    · exact .refl _ _
  · exact .refl _ _

theorem freezeSlot_steady (n : SlotNum) (p : Part) : Steady own p (freezeSlot n p).2 := by
  unfold freezeSlot
  split
  · rename_i x hx
    split
    · split
      · refine (setSlot_steady n (some x.freeze) p ?_ fun h => h.update n x _ hx ⟨rfl, rfl⟩).trans (raise_steady _ _)
        rw [hx]
        exact fun h => ⟨h.1, fun hf => by cases hf⟩
      · exact .refl _ _
    · exact .refl _ _
  · exact .refl _ _

theorem retireSlot_steady (n : SlotNum) (p : Part) : Steady own p (retireSlot n p).2 := by
  unfold retireSlot
  split
  · exact .refl _ _
  · rename_i x hx
    split
    · rename_i hst
      refine (setSlot_steady n none p ?_ fun h => h.empty n).trans (raise_steady _ _)
      rw [hx]
      exact fun h => h.2 hst
    · refine Steady.trans (q := setSlot n _ p) ?_ (raise_steady _ _)
      split
      · rename_i hrefs
        refine setSlot_steady n none p ?_ fun h => h.empty n
        rw [hx]
        exact fun h => h.1.symm.trans hrefs
      · refine setSlot_steady n _ p ?_ fun h => h.update n x _ hx ⟨rfl, rfl⟩
        rw [hx]
        exact fun h => ⟨h.1, fun hf => by cases hf⟩
    · exact .refl _ _

theorem thawSlot_steady (n : SlotNum) (p : Part) : Steady own p (thawSlot n p).2 := by
  unfold thawSlot
  split
  · exact raise_steady _ _
  · split
    · rename_i x hx
      split
      · exact .refl _ _
      · split
        · exact .refl _ _
        · rename_i hrefs
          refine (setSlot_steady n (some x.thaw) p ?_ fun h => h.update n x _ hx ⟨rfl, rfl⟩).trans (raise_steady _ _)
          rw [hx]
          exact fun h => ⟨h.1, fun _ => h.1.symm.trans (by simpa using hrefs)⟩
    · exact .refl _ _

/-- A taken block leaves kind, state, length, place and references of its slot (R7). -/
theorem afterBlock_keeps (x : Slot) (data : List Byte) :
    (x.afterBlock data).kind = x.kind ∧ (x.afterBlock data).state = x.state ∧
    (x.afterBlock data).length = x.length ∧ (x.afterBlock data).first = x.first ∧
    (x.afterBlock data).refs = x.refs ∧ (x.afterBlock data).fill = x.fill + 1 ∧
    (x.afterBlock data).digest = x.digest := by
  unfold Slot.afterBlock
  dsimp only
  split <;> exact ⟨rfl, rfl, rfl, rfl, rfl, rfl, rfl⟩

theorem afterBlock_sameExtent (x : Slot) (data : List Byte) : x.sameExtent (x.afterBlock data) := by
  obtain ⟨hkind, -, hlength, hfirst, -⟩ := afterBlock_keeps x data
  exact ⟨hfirst, by simp only [Slot.chunkCount, hkind, hlength]⟩

theorem takeBlock_steady (n : SlotNum) (x : Slot) (data : List Byte) (p : Part) (hx : p.slots[n] = some x) :
    Steady own p (setSlot n (some (x.afterBlock data)) p) := by
  obtain ⟨-, hstate, -, -, hrefs, -⟩ := afterBlock_keeps x data
  refine setSlot_steady n _ p ?_ fun h => h.update n x _ hx (afterBlock_sameExtent x data)
  rw [hx]
  simp only [SlotCounts, hstate, hrefs]
  exact id

/-! ## Jobs -/

/-- A command that names a job does what its rule does to a record that is held, or nothing. -/
theorem onJob_steady {b : Byte} {f : JobNum → Job → Part → Response × Part} {p : Part}
    (h : ∀ j x, p.jobs[j] = some x → Steady own p (f j x p).2) : Steady own p (onJob b f p).2 := by
  unfold onJob
  split
  · exact .refl _ _
  · rename_i j _
    split
    · exact .refl _ _
    · rename_i x hx
      exact h j x hx

theorem onJobByte_steady {payload : List Byte} {f : JobNum → Job → Part → Response × Part} {p : Part}
    (h : ∀ j x, p.jobs[j] = some x → Steady own p (f j x p).2) : Steady own p (onJobByte payload f p).2 := by
  unfold onJobByte
  split
  · exact onJob_steady h
  · exact .refl _ _

/-- A job record may be replaced by one that holds as many places and names each slot as often. -/
theorem setJob_steady (j : JobNum) (x : Option Job) (p : Part) (hplaces : placesOf x ≤ placesOf p.jobs[j])
    (hnamings : ∀ n, namings n x = namings n p.jobs[j]) : Steady own p (setJob j x p) :=
  .working (places := fun h => h.setJob j x hplaces)
    (refs := fun h => (RefsOff.congr (g' := fun _ => 0) h.off (by simp) fun n => by
      have := namingsOf_put p.jobs j x n
      have := hnamings n
      simp only [setJob_keeps]
      omega).counted)
    (extents := fun h => h.congr (by simp))

theorem draftJob_steady (slot : SlotNum) (m : Media) (target : Nat) (f : DefFields) (p : Part) :
    Steady own p (draftJob slot m target f p).2 := by
  unfold draftJob
  split
  · exact .refl _ _
  · rename_i j hj
    have hnone := lowest_isNone hj
    exact (setJob_steady j _ p (by simp [placesOf, JobState.holdsPlace])
      (by simp [hnone, namings, JobState.listed])).trans (raise_steady _ _)

theorem jobDefineBody_steady (payload : List Byte) (p : Part) : Steady own p (jobDefineBody payload p).2 := by
  unfold jobDefineBody
  split
  · exact .refl _ _
  · split
    · exact draftJob_steady _ _ _ _ p
    · exact .refl _ _

theorem amendJob_steady (bytes : List Byte) (j : JobNum) (x : Job) (p : Part) (hx : p.jobs[j] = some x) :
    Steady own p (amendJob bytes j x p).2 := by
  unfold amendJob
  split
  · exact .refl _ _
  · rename_i hst
    have hst : x.state = .draft := by simpa using hst
    split
    · exact .refl _ _
    · exact setJob_steady j _ p (by simp [hx, placesOf]) (by simp [hx, namings, hst, JobState.listed])

theorem jobAmendBody_steady (payload : List Byte) (p : Part) : Steady own p (jobAmendBody payload p).2 := by
  unfold jobAmendBody
  split
  · split
    · exact onJob_steady fun j x hx => amendJob_steady _ j x p hx
    · exact .refl _ _
  · exact .refl _ _

/-- A slot of which R27 asks that it be FROZEN is no FILLING slot. -/
theorem frozenOf_slot {p : Part} {k : ImageKind} {n : SlotNum} (h : frozenOf p k n = true) :
    ∃ s, p.slots[n] = some s ∧ s.kind = k ∧ s.state = .frozen := by
  unfold frozenOf at h
  split at h
  · rename_i s hs
    exact ⟨s, hs, by simpa using h⟩
  · cases h

/-- Taking a reference changes no slot's state. -/
theorem takeRef_slot {p : Part} (m : SlotNum) {n : SlotNum} {s : Slot} (hs : p.slots[n] = some s) :
    ∃ t, (takeRef m p).slots[n] = some t ∧ t.state = s.state := by
  unfold takeRef
  split
  · rename_i x hx
    simp only [setSlot_keeps, put_get]
    split
    · subst_vars
      rw [hs] at hx
      cases hx
      exact ⟨_, rfl, rfl⟩
    · exact ⟨s, hs, rfl⟩
  · exact ⟨s, hs, rfl⟩

/-- The references of a job that is queued are taken on FROZEN slots (R27). -/
theorem takeRefs_refs {p : Part} (d : JobDef) (h : RefsCounted p) (hdisc : frozenOf p .disc d.discSlot = true)
    (hlabel : labelFrozen d p = true) : RefsOff (naming d) (takeRefs d p) := by
  obtain ⟨s, hs, -, hst⟩ := frozenOf_slot hdisc
  have hd := takeRef_refs h.off d.discSlot s hs (by simp [hst])
  cases hn : d.labelSlot with
  | none =>
    simp only [takeRefs, hn]
    exact hd.congr rfl fun m => by simp [naming, hn]
  | some n =>
    simp only [labelFrozen, hn] at hlabel
    obtain ⟨t, ht, -, htst⟩ := frozenOf_slot hlabel
    obtain ⟨u, hu, hust⟩ := takeRef_slot d.discSlot ht
    simp only [takeRefs, hn]
    exact (takeRef_refs hd n u hu (by simp [hust, htst])).congr rfl fun m => by simp [naming, hn]

theorem takeRefs_extents {p : Part} (d : JobDef) (h : ExtentsApart p) : ExtentsApart (takeRefs d p) := by
  unfold takeRefs
  split
  · exact takeRef_extents (takeRef_extents h _) _
  · exact takeRef_extents h _

@[simp] theorem takeRefs_keeps (d : JobDef) (p : Part) :
    (takeRefs d p).held = p.held ∧ (takeRefs d p).strap = p.strap ∧ (takeRefs d p).ring = p.ring ∧
    (takeRefs d p).jobs = p.jobs ∧ (takeRefs d p).runList = p.runList ∧ (takeRefs d p).verifier = p.verifier ∧
    (takeRefs d p).printer = p.printer ∧ (takeRefs d p).thermal = p.thermal ∧ (takeRefs d p).engine = p.engine ∧
    (takeRefs d p).bus = p.bus ∧ (takeRefs d p).bays = p.bays ∧ (takeRefs d p).flow = p.flow ∧
    (takeRefs d p).links = p.links := by
  unfold takeRefs
  split <;> simp

/-- The references of a job that is queued are taken as it becomes a listed job (R27, R40). -/
theorem queued_steady (j : JobNum) (x : Job) (p : Part) (hx : p.jobs[j] = some x) (hst : x.state = .draft)
    (hdisc : frozenOf p .disc x.defn.discSlot = true) (hlabel : labelFrozen x.defn p = true) :
    Steady own p (setJobState j x .queued none (takeRefs x.defn p)) := by
  refine .working (places := fun h => ?_) (refs := fun h => ?_) (extents := fun h => ?_)
  · exact (h.congr (q := takeRefs x.defn p) (by simp)).setJobState j x .queued none (by simp [JobState.holdsPlace])
  · refine (setJobState_refs (g' := fun _ => 0) (takeRefs_refs x.defn h hdisc hlabel) j x .queued none
      fun n => ?_).counted
    have hjobs : (takeRefs x.defn p).jobs = p.jobs := by simp
    rw [namings_listed rfl, hjobs, hx, namings_unlisted (by simp [hst, JobState.listed])]
    dsimp only
    omega
  · exact (takeRefs_extents x.defn h).congr (by simp)

/-- The run list may be any. -/
theorem runList_steady (p : Part) (js : List JobNum) : Steady own p { p with runList := js } := .quiet

theorem queueJob_steady (j : JobNum) (x : Job) (p : Part) (hx : p.jobs[j] = some x) :
    Steady own p (queueJob j x p).2 := by
  unfold queueJob
  split
  · exact .refl _ _
  · rename_i hst
    split
    · exact .refl _ _
    · rename_i hfrozen
      split
      · exact .refl _ _
      · simp only [Bool.or_eq_true, Bool.not_eq_true', not_or, Bool.not_eq_false] at hfrozen
        obtain ⟨hdisc, hlabel⟩ := hfrozen
        dsimp only
        refine Steady.settle (Steady.trans ?_ (admitJobs_steady _))
        exact Steady.trans (queued_steady j x p hx (by simpa using hst) hdisc hlabel) (runList_steady _ _)

theorem haltJob_steady (j : JobNum) (x : Job) (p : Part) (hx : p.jobs[j] = some x) :
    Steady own p (haltJob j x p).2 := by
  unfold haltJob
  split
  · rename_i hst
    dsimp only
    exact (haltRunning_steady j x _ p hx hst).settle
  · rename_i hst
    dsimp only
    exact (setJobState_steady j x .halted _ p hx (by simp [hst, JobState.listed])
      (by simp [JobState.holdsPlace])).settle
  · exact .refl _ _

theorem resumeJob_steady (j : JobNum) (x : Job) (p : Part) (hx : p.jobs[j] = some x) :
    Steady own p (resumeJob j x p).2 := by
  unfold resumeJob
  split
  · rename_i hst
    dsimp only
    exact (setJobState_steady j x .running none p hx (by simp [hst, JobState.listed])
      (by simp [hst, JobState.holdsPlace])).settle
  · rename_i hst
    dsimp only
    exact ((setJobState_steady j x .queued none p hx (by simp [hst, JobState.listed])
      (by simp [JobState.holdsPlace])).trans (admitJobs_steady _)).settle
  · exact .refl _ _

/-! ## Cancelling -/

theorem cancelInEngine_steady (b : BayNum) (p : Part) : Steady own p (cancelInEngine b p) := by
  have hwait : Steady own p { p with engine := { p.engine with waiting := p.engine.waiting.filter (· ≠ b) } } :=
    .quiet (bays := fun h => h.mono (fun n y hy => ⟨y, hy, List.Sublist.refl _⟩) List.filter_sublist)
  unfold cancelInEngine
  dsimp only
  split
  · exact hwait
  · exact (hwait.trans (removeMember_steady _ _ _)).trans (askClear_steady _ _ _)

theorem cancelInVerifier_steady (b : BayNum) (p : Part) : Steady own p (cancelInVerifier b p) := by
  have hqueue : Steady own p { p with verifier := { p.verifier with queue := p.verifier.queue.filter (· ≠ b) } } :=
    .quiet (verify := fun h => h.filter _)
  unfold cancelInVerifier
  dsimp only
  split
  · exact hqueue
  · split
    · refine hqueue.trans ?_
      exact .quiet (ring := fun h => by simp [h]) (verify := fun h => by simpa using h)
    · exact hqueue

theorem cancelPrintWait_steady (d : Disc) (p : Part) : Steady own p (cancelPrintWait d p) := by
  unfold cancelPrintWait
  split
  · exact Steady.trans .quiet (failDisc_steady _ _ _)
  · split
    · exact markFailed_steady _ _ _
    · exact (dropOrder_steady _ _).trans (failDisc_steady _ _ _)

theorem cancelDisc_steady (d : Disc) (p : Part) : Steady own p (cancelDisc d p) := by
  have hfail := failDisc_steady (own := own) d .cancelled p
  unfold cancelDisc
  split
  · exact hfail.trans (cancelInEngine_steady _ _)
  · exact hfail.trans (cancelInEngine_steady _ _)
  · exact hfail
  · exact hfail.trans (cancelInVerifier_steady _ _)
  · exact hfail.trans (cancelInVerifier_steady _ _)
  · exact cancelPrintWait_steady d p
  · exact .refl _ _

/-- What each step of a fold keeps, the fold keeps. -/
theorem foldl_steady {α : Type} (f : Part → α → Part) (h : ∀ p a, Steady own p (f p a)) (as : List α) (p : Part) :
    Steady own p (as.foldl f p) := by
  induction as generalizing p with
  | nil => exact .refl _ _
  | cons a as ih => exact (h p a).trans (ih _)

theorem cancelAdmitted_steady (j : JobNum) (x : Job) (p : Part) (hx : p.jobs[j] = some x)
    (hp : x.state.holdsPlace = true) : Steady own p (cancelAdmitted j x p) := by
  have hstate := setJobState_steady (own := own) j x .cancelling none p hx
    (by rw [holdsPlace_listed hp]; rfl) fun _ => hp
  have hdiscs := foldl_steady (own := own) (fun p d => cancelDisc d p) fun p d => cancelDisc_steady d p
  have hreap := foldl_steady (own := own) (fun p n => reap n p) fun p n => reap_steady n p
  unfold cancelAdmitted reapAll
  dsimp only
  refine Steady.trans ?_ (endDrain_steady j _)
  refine Steady.trans ?_ (startReadbacks_steady _)
  refine Steady.trans ?_ (hreap _ _)
  refine Steady.trans ?_ (hdiscs _ _)
  exact hstate.trans (withdrawPickOf_steady j _)

theorem cancelJob_steady (j : JobNum) (x : Job) (p : Part) (hx : p.jobs[j] = some x) :
    Steady own p (cancelJob j x p).2 := by
  unfold cancelJob
  split <;> rename_i hst
  · exact setJobState_steady j x .cancelled none p hx (by simp [hst, JobState.listed]) (by simp [JobState.holdsPlace])
  · dsimp only
    exact (finishJob_steady j x .cancelled p hx (by simp [hst, JobState.listed]) rfl).settle
  · dsimp only
    exact (finishJob_steady j x .cancelled p hx (by simp [hst, JobState.listed]) rfl).settle
  · dsimp only
    exact (cancelAdmitted_steady j x p hx (by simp [hst, JobState.holdsPlace])).settle
  · dsimp only
    exact (cancelAdmitted_steady j x p hx (by simp [hst, JobState.holdsPlace])).settle
  · exact .refl _ _

theorem removable_unlisted {st : JobState} (h : st.removable = true) : st.listed = false := by
  revert h
  cases st <;> simp [JobState.removable, JobState.listed]

theorem removeJob_steady (j : JobNum) (x : Job) (p : Part) (hx : p.jobs[j] = some x) :
    Steady own p (removeJob j x p).2 := by
  unfold removeJob
  split
  · rename_i hst
    exact (setJob_steady j none p (Nat.zero_le _)
      (by simp [hx, namings, removable_unlisted hst])).trans (raise_steady _ _)
  · exact .refl _ _

end

end Sys2Proof.Machine
end

section
/-!
PROOFS. What the commands of the disc flow controller, the bay manager and the bay bus keep.
-/

namespace Sys2Proof.Machine

section
variable {own : Option Link}

/-! ## Moves -/

/-- An append writes the results ring and the links alone. -/
theorem appendResult_steady (x : ResultEntry) (p : Part) : Steady own p (appendResult x p) where
  events := (EventsStay.refl own p.links).map_afterAppend _
  queue := id
  offline := id
  ring := id
  bays := id
  verify := id
  places h := h.congr rfl
  results h := appendResult_bounded x h
  refs h := h.congr rfl rfl
  extents h := h.congr rfl
  settings h := h.congr rfl rfl rfl rfl (Nat.le_refl _) rfl

theorem loadDisc_steady (id : Nat) (b : BayNum) (p : Part) : Steady own p (loadDisc id b p) :=
  (modDisc_steady id _ p).trans
    (modBay_steady b _ _ fun h => Bay.enter_offline (st := .loaded) (by simp) (h b))

theorem leaveFor_steady (x : Position) (p : Part) : Steady own p (leaveFor x p) := by
  unfold leaveFor
  split
  · exact trayFreed_steady p
  · exact leavePlace_steady x p

theorem afterPick_steady (id : Nat) (b : BayNum) (j : JobNum) (p : Part) : Steady own p (afterPick id b j p) := by
  unfold afterPick
  split
  · split
    · exact failDisc_steady _ _ p
    · exact .refl _ _
  · exact placeLoaded_steady b j p

theorem pickDone_steady (d : Disc) (b : BayNum) (p : Part) : Steady own p (pickDone d b p) := by
  have h := (loadDisc_steady (own := own) d.id b p).trans (report_steady d.job ⟨1, 0, 0⟩ _)
  unfold pickDone
  dsimp only
  split
  · exact h.trans (afterPick_steady _ _ _ _)
  · exact h

theorem trayDone_steady (d : Disc) (source : Position) (p : Part) : Steady own p (trayDone d source p) := by
  have h := (modDisc_steady (own := own) d.id (fun x => { x with position := .tray, destination := none }) p).trans
    (leavePlace_steady source _)
  unfold trayDone
  dsimp only
  split
  · exact (h.trans (modDisc_steady _ _ _)).trans (startLabel_steady _ _)
  · exact (h.trans (addOrder_steady _ _ _ _ _)).trans (notPrinted_steady _ _)
  · exact h

theorem delivered_steady (d : Disc) (source : Position) (outcome : DiscOutcome) (p : Part) :
    Steady own p (delivered d source outcome p) := by
  have h := ((removeDisc_steady (own := own) d.id p).trans (leaveFor_steady source _)).trans
    (appendResult_steady (entryFor d outcome d.reason) _)
  unfold delivered
  dsimp only
  split
  · exact (h.trans (raise_steady _ _)).trans (report_steady _ _ _)
  · exact (h.trans (raise_steady _ _)).trans (report_steady _ _ _)

theorem moveArrives_steady (o : Order) (d : Disc) (p : Part) : Steady own p (moveArrives o d p) := by
  unfold moveArrives
  split
  · exact pickDone_steady d _ p
  · exact trayDone_steady d _ p
  · exact delivered_steady d _ _ p
  · exact delivered_steady d _ _ p
  · exact .refl _ _

theorem completeMove_steady (o : Order) (p : Part) : Steady own p (completeMove o p) := by
  have h := (dropOrder_steady (own := own) o p).trans (judgeMove_steady _)
  unfold completeMove
  dsimp only
  split
  · exact h.trans (moveArrives_steady o _ _)
  · exact h

theorem moveDoneBody_steady (payload : List Byte) (p : Part) : Steady own p (moveDoneBody payload p).2 := by
  unfold moveDoneBody
  split
  · split
    · unfold moveDone
      split
      · split
        · exact (completeMove_steady _ p).settle
        · exact .refl _ _
      · exact .refl _ _
    · exact .refl _ _
  · exact .refl _ _

/-- A MOVE FAILED does what its rule does to the issued order, or nothing. -/
theorem moveFailedBody_steady {payload : List Byte} {pickOnly : Bool} {f : Order → Part → Part} {p : Part}
    (h : ∀ o, Steady own p (f o p)) : Steady own p (moveFailedBody payload pickOnly f p).2 := by
  unfold moveFailedBody
  split
  · split
    · split
      · exact .refl _ _
      · split
        · split
          · exact .refl _ _
          · split
            · exact .refl _ _
            · exact (h _).settle
        · exact .refl _ _
    · exact .refl _ _
  · exact .refl _ _

theorem emptySpindle_steady (x : Position) (p : Part) : Steady own p (emptySpindle x p) := by
  unfold emptySpindle
  split
  · exact .quiet
  · exact .refl _ _

theorem spindleBare_steady (o : Order) (p : Part) : Steady own p (spindleBare o p) :=
  (((emptySpindle_steady o.source p).trans (withdraw_steady o _)).trans (raise_steady _ _)).trans
    (report_steady _ _ _)

theorem freePlaces_steady (o : Order) (p : Part) : Steady own p (freePlaces o p) := by
  unfold freePlaces
  split
  · exact leavePlace_steady _ p
  · exact leaveFor_steady _ p

theorem discLost_steady (o : Order) (p : Part) : Steady own p (discLost o p) := by
  have h := (dropOrder_steady (own := own) o p).trans (judgeMove_steady _)
  unfold discLost
  dsimp only
  split
  · exact ((((h.trans (removeDisc_steady _ _)).trans (freePlaces_steady o _)).trans
      (appendResult_steady _ _)).trans (raise_steady _ _)).trans (report_steady _ _ _)
  · exact h

theorem armJammed_steady (o : Order) (p : Part) : Steady own p (armJammed o p) :=
  Steady.trans (q := { p with flow := { p.flow with held := true } }) .quiet (raise_steady _ _)

/-- A command without a payload does what its rule does, or nothing. -/
theorem noPayload_steady {payload : List Byte} {f : Part → Response × Part} {p : Part} (h : Steady own p (f p).2) :
    Steady own p (noPayload payload f p).2 := by
  unfold noPayload
  split
  · exact h
  · exact .refl _ _

theorem nextMove_steady (p : Part) : Steady own p (nextMove p).2 := by
  unfold nextMove
  split
  · exact .refl _ _
  · split
    · exact .quiet
    · exact .refl _ _

theorem resumeFlow_steady (p : Part) : Steady own p (resumeFlow p).2 := by
  unfold resumeFlow
  split
  · exact Steady.settle .quiet
  · exact .refl _ _

theorem reportSpindle_steady (n : SpindleNum) (m : Option Media) (p : Part) :
    Steady own p (reportSpindle n m p).2 := by
  have h : Steady own p { p with flow := { p.flow with spindles := put p.flow.spindles n m } } := .quiet
  unfold reportSpindle
  dsimp only
  split
  · exact (h.trans (withdrawAndReport_steady _ _)).settle
  · exact h.settle

theorem spindleReportBody_steady (payload : List Byte) (p : Part) : Steady own p (spindleReportBody payload p).2 := by
  unfold spindleReportBody
  split
  · split
    · exact .refl _ _
    · split
      · exact reportSpindle_steady _ _ p
      · split
        · split
          · exact reportSpindle_steady _ _ p
          · exact .refl _ _
        · exact .refl _ _
  · exact .refl _ _

theorem reportBin_steady (accept full : Bool) (p : Part) : Steady own p (reportBin accept full p).2 := by
  unfold reportBin
  dsimp only
  split
  · exact (Steady.trans .quiet (raiseIf_steady _ _ _)).settle
  · exact (Steady.trans .quiet (raiseIf_steady _ _ _)).settle

theorem binReportBody_steady (payload : List Byte) (p : Part) : Steady own p (binReportBody payload p).2 := by
  unfold binReportBody
  split
  · split
    · exact reportBin_steady _ _ p
    · exact .refl _ _
  · exact .refl _ _

/-- DISC READ changes nothing (R71). -/
theorem discReadBody_part (payload : List Byte) (p : Part) : (discReadBody payload p).2 = p := by
  unfold discReadBody
  (repeat' split) <;> rfl

/-! ## Bays -/

theorem onBay_steady {payload : List Byte} {f : BayNum → Part → Response × Part} {p : Part}
    (h : ∀ b, Steady own p (f b p).2) : Steady own p (onBay payload f p).2 := by
  unfold onBay
  split
  · split
    · exact h _
    · exact .refl _ _
  · exact .refl _ _

theorem enableBay_steady (b : BayNum) (p : Part) : Steady own p (enableBay b p).2 :=
  ((modBay_steady b _ p fun h => h b).trans (raiseIf_steady _ _ _)).settle

/-- A BAY DISABLE leaves presence and state (R86). -/
theorem disable_keeps (x : Bay) : x.disable.state = x.state ∧ x.disable.present = x.present := by
  unfold Bay.disable
  (repeat' split) <;> exact ⟨rfl, rfl⟩

theorem disableBay_steady (b : BayNum) (p : Part) : Steady own p (disableBay b p).2 := by
  refine ((modBay_steady b _ p fun h => ?_).trans (raiseIf_steady _ _ _)).settle
  rw [(disable_keeps _).1, (disable_keeps _).2]
  exact h b

theorem housekeepingExpires_steady (b : BayNum) (p : Part) : Steady own p (housekeepingExpires b p) := by
  unfold housekeepingExpires
  split
  · exact (modBay_steady b _ p fun h => h b).trans (ask_steady _ _)
  · exact .refl _ _

theorem probeExpires_steady (b : BayNum) (p : Part) : Steady own p (probeExpires b p) := by
  unfold probeExpires
  split
  · exact (modBay_steady b _ p fun h => h b).trans (ask_steady _ _)
  · exact .refl _ _

/-! ## The bay bus -/

/-- The bus may change as it will, but for the grant ring. -/
theorem bus_steady (p : Part) (x : Bus) (h : x.ring = p.bus.ring) : Steady own p { p with bus := x } :=
  .quiet (ring := fun hr => by simpa [h] using hr)

theorem address_steady (a : Addressing) (p : Part) : Steady own p (address a p) := .quiet

theorem nextItem_steady (is : List Item) (p : Part) : Steady own p (nextItem is p) := .quiet

theorem beginRound_steady (p : Part) : Steady own p (beginRound p) := by
  unfold beginRound
  split
  · exact (bus_steady p { p.bus with list := [], pause := none, fruitless := [] } rfl).trans (nextItem_steady _ _)
  · exact .refl _ _

theorem takePosition_steady (e : RingEntry) (p : Part) : Steady own p (takePosition e p) := bus_steady p _ rfl

theorem pauseEnds_steady (p : Part) : Steady own p (pauseEnds p) := bus_steady p _ rfl

theorem pollResult_steady (lanes : Lanes) (attn : Bool) (p : Part) : Steady own p (pollResult lanes attn p) := by
  unfold pollResult
  dsimp only
  split
  · split
    · exact bus_steady p _ rfl
    · exact .refl _ _
  · exact bus_steady p _ rfl

theorem commandEffect_steady (it : Item) (live : Bool) (lanes : Lanes) (attn : Bool) (p : Part) :
    Steady own p (commandEffect it live lanes attn p) := by
  unfold commandEffect
  split
  · exact bus_steady p _ rfl
  · exact bus_steady p _ rfl
  · split
    · exact goSent_steady _ p
    · exact .refl _ _
  · split
    · exact laggardResult_steady _ _ p
    · exact .refl _ _
  · exact pollResult_steady _ _ p
  · exact .refl _ _

theorem commandDone_steady (lanes : Lanes) (attn : Bool) (p : Part) : Steady own p (commandDone lanes attn p) := by
  unfold commandDone
  split
  · exact setTurn_steady _ p
  · exact ((itemOff_steady p).trans (commandEffect_steady _ _ _ _ _)).settle.trans (goOn_steady _)
  · exact .refl _ _

theorem messageSent_steady (it : Item) (p : Part) : Steady own p (messageSent it p) := by
  unfold messageSent
  split
  · exact modSession_steady _ _ p fun x => by split <;> rfl
  · exact modSession_steady _ _ p fun x => by split <;> rfl
  · exact readbackSent_steady _ p
  · exact .refl _ _

theorem messageDone_steady (p : Part) : Steady own p (messageDone p) := by
  unfold messageDone
  split
  · exact .refl _ _
  · exact .refl _ _
  · split
    · exact ((itemOff_steady p).trans (messageSent_steady _ _)).trans (goOn_steady _)
    · exact (itemOff_steady p).trans (goOn_steady _)
  · exact .refl _ _

theorem blockAccepted_steady (p : Part) : Steady own p (blockAccepted p) := by
  unfold blockAccepted
  split
  · split
    · exact (endMoved_steady p).trans (sessionAccepted_steady _ _)
    · exact endMoved_steady p
  · exact .refl _ _

theorem blockAbandoned_steady (p : Part) : Steady own p (blockAbandoned p) := by
  unfold blockAbandoned
  split
  · split
    · exact (sessionYielded_steady _ p).trans (endFruitless_steady _ _)
    · exact setTurn_steady _ p
  · exact .refl _ _

theorem readbackTaken_steady (x : HeldBlock) (p : Part) : Steady own p (readbackTaken x p) := by
  unfold readbackTaken
  split
  · split
    · exact (endMoved_steady p).trans (handBlock_steady _ _ _)
    · exact endMoved_steady p
  · exact .refl _ _

theorem turnEmpty_steady (p : Part) : Steady own p (turnEmpty p) := by
  unfold turnEmpty
  split
  · split
    · exact endFruitless_steady _ p
    · exact setTurn_steady _ p
  · exact .refl _ _

theorem readOver_steady (b : BayNum) (p : Part) : Steady own p (readOver b p) :=
  (bus_steady p { p.bus with addressing := .talker b } rfl).trans (itemOff_steady _)

theorem afterRead_steady (polled attn : Bool) (p : Part) : Steady own p (afterRead polled attn p) := by
  unfold afterRead
  split
  · exact (judgePoll_steady attn p).trans (goOn_steady _)
  · exact goOn_steady p

theorem judgeDiscPresent_steady (b : BayNum) (r : StatusRecord) (p : Part) :
    Steady own p (judgeDiscPresent b r p) := by
  unfold judgeDiscPresent
  split
  · exact orphanInBay_steady b p
  · exact .refl _ _

theorem readAnswered_steady (r : StatusRecord) (attn : Bool) (p : Part) : Steady own p (readAnswered r attn p) := by
  unfold readAnswered
  split
  · exact ((((readOver_steady _ p).trans (takeRecord_steady _ r _)).trans (judgeDiscPresent_steady _ r _)).trans
      (engineRecord_steady _ r _)).settle.trans (afterRead_steady _ _ _)
  · exact .refl _ _

theorem readUnanswered_steady (attn : Bool) (p : Part) : Steady own p (readUnanswered attn p) := by
  unfold readUnanswered
  split
  · exact ((readOver_steady _ p).trans (judgeSilence_steady _ _)).settle.trans (afterRead_steady _ _ _)
  · exact .refl _ _

theorem holdOffEnds_steady (attn : Bool) (p : Part) : Steady own p (holdOffEnds attn p) := by
  unfold holdOffEnds
  split
  · exact (bus_steady p { p.bus with holdOff := none } rfl).trans (judgePoll_steady attn _)
  · exact .refl _ _

/-- A grant changes the part alone, and that steadily. -/
theorem execGrant_steady {ready : Bool} {s t : State} (h : execGrant ready s = .next t) :
    Steady own s.part t.part ∧ t.mem = s.mem := by
  have hself : ∀ {u : State}, (Host.Outcome.next s : Result) = .next u → Steady own s.part u.part ∧ u.mem = s.mem := by
    intro u hu
    cases hu
    exact ⟨.refl _ _, rfl⟩
  have hgranted : ∀ (e : RingEntry) (a : Addressing), Steady own s.part (address a (takePosition e s.part)) :=
    fun e a => (takePosition_steady e s.part).trans (address_steady a _)
  unfold execGrant at h
  split at h
  · exact hself h
  · split at h
    · unfold makeGrant at h
      split at h
      · split at h
        · unfold grantBroadcast at h
          dsimp only at h
          split at h
          · cases h
            exact ⟨((hgranted _ _).trans (sessionYielded_steady _ _)).trans (endFruitless_steady _ _), rfl⟩
          · split at h
            · cases h
              exact ⟨((hgranted _ _).trans (sessionYielded_steady _ _)).trans (endFruitless_steady _ _), rfl⟩
            · split at h
              · cases h
              · cases h
                exact ⟨(hgranted _ _).trans (setTurn_steady _ _), rfl⟩
        · exact hself h
      · split at h
        · cases h
          exact ⟨(hgranted _ _).trans (setTurn_steady _ _), rfl⟩
        · exact hself h
    · exact hself h

end

end Sys2Proof.Machine
end

section
/-!
PROOFS. What the commands of the burn set engine, the verifier, the printer, the thermal monitor and the links keep, and
what leaving tower reset and the clock keep.
-/

namespace Sys2Proof.Machine

section
variable {own : Option Link}

/-! ## Burn sets and verification -/

theorem gatherExpires_steady (n : SessionNum) (p : Part) : Steady own p (gatherExpires n p) := by
  unfold gatherExpires
  split
  · split
    · exact (leaveAndReap_steady n p).settle
    · exact .refl _ _
  · exact .refl _ _

theorem prepareExpires_steady (n : SessionNum) (p : Part) : Steady own p (prepareExpires n p) := by
  unfold prepareExpires
  split
  · split
    · refine Steady.settle (Steady.trans ?_ (judgePrepared_steady _ _))
      refine Steady.trans ?_ (reap_steady _ _)
      refine Steady.trans ?_ (dropMembers_steady _ _ _ _ _)
      exact modSession_steady n _ p fun _ => rfl
    · exact .refl _ _
  · exact .refl _ _

theorem closeExpires_steady (n : SessionNum) (p : Part) : Steady own p (closeExpires n p) := by
  unfold closeExpires
  split
  · split
    · refine Steady.settle (Steady.trans ?_ (reap_steady _ _))
      refine Steady.trans ?_ (dropMembers_steady _ _ _ _ _)
      exact modSession_steady n _ p fun _ => rfl
    · exact .refl _ _
  · exact .refl _ _

/-- A session's record may be replaced by one with the same members. -/
theorem setSession_steady (n : SessionNum) (x y : Session) (p : Part) (hx : p.engine.sessions[n] = some x)
    (hy : y.members.map (·.bay) = x.members.map (·.bay)) : Steady own p (setSession n (some y) p) :=
  .quiet (bays := fun h => setSession_once n (some y) p h fun z hz => by
    cases hz
    exact ⟨x, hx, by rw [hy]⟩)

theorem stallExpires_steady (n : SessionNum) (p : Part) : Steady own p (stallExpires n p) := by
  unfold stallExpires
  split
  · rename_i x hx
    split
    · refine Steady.trans ?_ (ask_steady _ _)
      exact setSession_steady n x _ p hx rfl
    · exact .refl _ _
  · exact .refl _ _

theorem silenceExpires_steady (k : PlaceNum) (p : Part) : Steady own p (silenceExpires k p) := by
  unfold silenceExpires
  split
  · split
    · exact (endEarly_steady k _ p).settle
    · exact .refl _ _
  · exact .refl _ _

/-! ## Settings -/

theorem clampNat_bounds {lo hi : Nat} (h : lo ≤ hi) (x : Nat) : lo ≤ clampNat lo hi x ∧ clampNat lo hi x ≤ hi := by
  unfold clampNat
  (repeat' split) <;> omega

theorem clampInt_bounds {lo hi : Int} (h : lo ≤ hi) (x : Int) : lo ≤ clampInt lo hi x ∧ clampInt lo hi x ≤ hi := by
  unfold clampInt
  (repeat' split) <;> omega

/-- A setting that is given or kept stays in its range. -/
theorem settleNat_bounds {lo hi old : Nat} (h : lo ≤ hi) (hlo : lo ≤ old) (hhi : old ≤ hi) (x : Option Nat) :
    lo ≤ (settleNat lo hi old x).value ∧ (settleNat lo hi old x).value ≤ hi := by
  cases x with
  | none => exact ⟨hlo, hhi⟩
  | some x => exact clampNat_bounds h x

/-- An operation that writes settings alone. -/
theorem Steady.setting {p q : Part} (settings : SettingsLegal p → SettingsLegal q)
    (links : q.links = p.links := by simp) (flow : q.flow = p.flow := by simp) (bays : q.bays = p.bays := by simp)
    (bus : q.bus = p.bus := by simp) (sessions : q.engine.sessions = p.engine.sessions := by simp)
    (waiting : q.engine.waiting = p.engine.waiting := by simp)
    (queue : q.verifier.queue = p.verifier.queue := by simp) (jobs : q.jobs = p.jobs := by simp)
    (slots : q.slots = p.slots := by simp) (ring : q.ring = p.ring := by simp) : Steady own p q where
  events := links ▸ .refl _ _
  queue h := flow ▸ h
  offline h := bays ▸ h
  ring h := bus ▸ h
  bays h := h.mono (fun n y hy => ⟨y, sessions ▸ hy, List.Sublist.refl _⟩) (by rw [waiting])
  verify h := queue ▸ h
  places h := h.congr jobs
  results h := h.congr ring (by rw [links])
  refs h := h.congr slots jobs
  extents h := h.congr slots
  settings := settings

theorem burnSettingsBody_steady (payload : List Byte) (p : Part) : Steady own p (burnSettingsBody payload p).2 := by
  unfold burnSettingsBody
  split
  · refine .setting fun h => ?_
    have hg := settleNat_bounds (by omega) (Nat.zero_le _) h.gather
    have hp := settleNat_bounds (by omega) h.prime.1 h.prime.2
    have hs := settleNat_bounds (by omega) h.stall.1 h.stall.2
    exact { h.congr (q := p) rfl rfl rfl rfl (Nat.le_refl _) rfl with
      gather := (hg _).2
      prime := hp _
      stall := hs _ }
  · exact .refl _ _

theorem verifyLimitsBody_steady (payload : List Byte) (p : Part) : Steady own p (verifyLimitsBody payload p).2 := by
  unfold verifyLimitsBody
  split
  · refine .setting fun h => ?_
    obtain ⟨hab, hbc, hc⟩ := h.grades
    have ha := settleNat_bounds (by omega) (Nat.zero_le _) ((hab.trans hbc).trans hc)
    have hb := settleNat_bounds (by omega) (Nat.zero_le _) (hbc.trans hc)
    have hc := settleNat_bounds (by omega) (Nat.zero_le _) hc
    exact { h with
      grades := ⟨Nat.le_max_left _ _, Nat.le_max_left _ _,
        Nat.max_le.2 ⟨Nat.max_le.2 ⟨(ha _).2, (hb _).2⟩, (hc _).2⟩⟩ }
  · exact .refl _ _

/-- The print settings that R165 leaves are in their ranges, whatever was given or kept. -/
theorem printSettle_legal (x : PrintSettings) :
    (x.settle.ri < x.settle.ro ∧ x.settle.ro ≤ 1018) ∧ x.settle.kt ≤ 40 ∧
    (∀ h, 64 ≤ x.settle.mult h ∧ x.settle.mult h ≤ 256) ∧
    50 ≤ x.settle.tmin ∧ x.settle.tmin ≤ x.settle.tmax ∧ x.settle.tmax ≤ 2500 := by
  have hro := clampNat_bounds (show 1 ≤ 1018 by omega) x.ro
  have hri := clampNat_bounds (Nat.zero_le (clampNat 1 1018 x.ro - 1)) x.ri
  have hmin := clampNat_bounds (show 50 ≤ 2500 by omega) x.tmin
  have hmax := clampNat_bounds (show 50 ≤ 2500 by omega) x.tmax
  refine ⟨⟨?_, hro.2⟩, (clampNat_bounds (show 0 ≤ 40 by omega) x.kt).2, fun h => ?_, hmin.1, Nat.le_max_left _ _,
    Nat.max_le.2 ⟨hmin.2, hmax.2⟩⟩
  · simp only [PrintSettings.settle]
    omega
  · match h with
    | 0 => exact clampNat_bounds (by omega) x.m0
    | 1 => exact clampNat_bounds (by omega) x.m1
    | 2 => exact clampNat_bounds (by omega) x.m2

theorem printSettingsBody_steady (payload : List Byte) (p : Part) :
    Steady own p (printSettingsBody payload p).2 := by
  unfold printSettingsBody
  split
  · refine .setting fun h => ?_
    obtain ⟨hradii, hkt, hmult, hstrobes⟩ := printSettle_legal (PrintFields.over _ p.printer.settings)
    exact { h with radii := hradii, coefficient := hkt, multipliers := hmult, strobes := hstrobes }
  · exact .refl _ _

/-- A pair of limits that R182 leaves is in its range. -/
theorem limitPair_settle_legal (x : LimitPair) : x.settle.legal := by
  have hh := clampInt_bounds (show (-160 : Int) ≤ 511 by omega) x.high
  have hc := clampInt_bounds (show (-160 : Int) ≤ 511 by omega) x.critical
  simp only [LimitPair.legal, LimitPair.settle, clampTemp]
  omega

theorem thermalLimitsBody_steady (payload : List Byte) (p : Part) :
    Steady own p (thermalLimitsBody payload p).2 := by
  unfold thermalLimitsBody
  split
  · exact .setting fun h => { h with
      head := limitPair_settle_legal _
      ambient := limitPair_settle_legal _
      bay := limitPair_settle_legal _ }
  · exact .refl _ _

theorem loadRibbon_steady (length : Nat) (tb : Option Nat) (p : Part) : Steady own p (loadRibbon length tb p).2 := by
  unfold loadRibbon
  dsimp only
  refine Steady.settle (Steady.trans (q := modPrinter _ p) ?_ (raiseIf_steady _ _ _))
  refine .setting fun h => { h with base := ?_, ribbon := ?_ }
  · exact settleNat_bounds (by omega) h.base.1 h.base.2 tb
  · exact (clampNat_bounds (show 0 ≤ 4000000 by omega) length).2

theorem ribbonLoadedBody_steady (payload : List Byte) (b : Bool) (p : Part) :
    Steady own p (ribbonLoadedBody payload b p).2 := by
  unfold ribbonLoadedBody
  split
  · split
    · exact .refl _ _
    · split
      · exact .refl _ _
      · exact loadRibbon_steady _ _ p
  · exact .refl _ _

/-! ## Label printing -/

theorem beginLine_steady (m : List Host.Cell) (l : Label) (v : Int) (p : Part) : Steady own p (beginLine m l v p) := by
  unfold beginLine
  dsimp only
  split
  · exact (abortLabel_steady _ p).settle
  · split
    · exact (sampleHead_steady v p).trans (pausing_steady _ _ rfl rfl (Nat.le_refl _))
    · exact (sampleHead_steady v p).trans (modPrinter_steady _ _ rfl rfl (Nat.le_refl _))

/-- A line that begins changes the part alone, and that steadily. -/
theorem execLineBegin_steady {v : Int} {s t : State} (h : execLineBegin v s = .next t) :
    Steady own s.part t.part ∧ t.mem = s.mem := by
  unfold execLineBegin at h
  split at h
  · split at h
    · cases h
      exact ⟨.refl _ _, rfl⟩
    · split at h
      · cases h
      · cases h
        exact ⟨beginLine_steady _ _ _ _, rfl⟩
  · cases h
    exact ⟨.refl _ _, rfl⟩

theorem lineFired_steady (p : Part) : Steady own p (lineFired p) := by
  unfold lineFired
  split
  · exact .refl _ _
  · rename_i f _
    have h : Steady own p (modPrinter (fun r =>
        { r with
          ribbon := r.ribbon - 1
          label := r.label.map fun l => l.advance f.printed
          firing := none
          gap := gapAfter r.pace f }) p) := modPrinter_steady _ p rfl rfl (Nat.sub_le _ _)
    dsimp only
    split
    · exact h
    · exact (h.trans (lineOver_steady _)).settle

theorem gapEnds_steady (p : Part) : Steady own p (gapEnds p) := by
  unfold gapEnds
  split
  · exact ((modPrinter_steady _ p rfl rfl (Nat.le_refl _)).trans (lineOver_steady _)).settle
  · exact .refl _ _

theorem hotExpires_steady (p : Part) : Steady own p (hotExpires p) := by
  unfold hotExpires
  split
  · exact ((modPrinter_steady _ p rfl rfl (Nat.le_refl _)).trans (abortLabel_steady _ _)).settle
  · exact .refl _ _

theorem ribbonBreaks_steady (p : Part) : Steady own p (ribbonBreaks p) := by
  have h : Steady own p (modPrinter (fun r => { r with ribbon := 0 }) p) :=
    modPrinter_steady _ p rfl rfl (Nat.zero_le _)
  unfold ribbonBreaks
  refine Steady.settle ?_
  split
  · exact h.trans (abortLabel_steady _ _)
  · exact h.trans (abortLabel_steady _ _)
  · exact h.trans (pausing_steady _ _ rfl rfl (Nat.le_refl _))
  · exact h

/-! ## Links -/

/-- A link's events may be replaced where its unread count does not grow and, but for `own`, no flag is lost and the
mask stays. -/
theorem setLink_steady (l : Link) (e : LinkEvents) (p : Part)
    (hown : own ≠ some l → e.flags = p.links[l].flags ∧ e.mask = p.links[l].mask)
    (hunread : e.unread ≤ p.links[l].unread) : Steady own p (setLink l e p) where
  events m hm := by
    simp only [setLink_keeps, put_get]
    split
    · subst_vars
      obtain ⟨hf, hmask⟩ := hown hm
      exact ⟨fun i hi => hf ▸ hi, hmask⟩
    · exact ⟨fun _ hi => hi, rfl⟩
  queue := id
  offline := id
  ring := id
  bays := id
  verify := id
  places h := h.congr rfl
  results h := by
    refine ⟨h.1, fun m => ?_⟩
    have := h.2 m
    simp only [setLink_keeps, put_get]
    split
    · subst_vars
      omega
    · exact this
  refs h := h.congr rfl rfl
  extents h := h.congr rfl
  settings h := h.congr rfl rfl rfl rfl (Nat.le_refl _) rfl

theorem resetLink_steady (l : Link) (p : Part) : Steady (some l) p (resetLink l p).2 :=
  setLink_steady l .reset p (fun h => absurd rfl h) (Nat.zero_le _)

/-- A command that carries a flag set does what its rule does, or nothing. -/
theorem withFlags_steady {payload : List Byte} {f : FlagSet → Part → Response × Part} {p : Part}
    (h : ∀ x, Steady own p (f x p).2) : Steady own p (withFlags payload f p).2 := by
  unfold withFlags
  split
  · split
    · exact h _
    · exact .refl _ _
  · exact .refl _ _

theorem clearEvents_steady (l : Link) (x : FlagSet) (p : Part) : Steady (some l) p (clearEvents l x p).2 :=
  setLink_steady l _ p (fun h => absurd rfl h) (Nat.le_refl _)

theorem maskEvents_steady (l : Link) (x : FlagSet) (p : Part) : Steady (some l) p (maskEvents l x p).2 :=
  setLink_steady l _ p (fun h => absurd rfl h) (Nat.le_refl _)

theorem resultsReadBody_steady (l : Link) (payload : List Byte) (p : Part) :
    Steady own p (resultsReadBody l payload p).2 := by
  unfold resultsReadBody
  split
  · exact setLink_steady l _ p (fun _ => ⟨rfl, rfl⟩) (Nat.sub_le _ _)
  · exact .refl _ _

/-! ## Resets and the clock -/

theorem trayCensus_steady (p : Part) : Steady own p (trayCensus p) :=
  ((createDisc_steady _ p).trans (addOrder_steady _ _ _ _ _)).trans (notPrinted_steady _ _)

theorem discover_steady (p : Part) : Steady own p (discover p) :=
  (ask_steady _ p).trans (foldl_steady _ (fun p b => ask_steady (.statusRead b false) p) _ _)

theorem leaveReset_steady (strapTied trayShown : Bool) (head ambient : Int) (p : Part) :
    Steady own p (leaveReset strapTied trayShown head ambient p) := by
  have hopen : Steady own p { p with held := false, strap := strapTied } := .quiet
  have h := ((hopen.trans (raise_steady .reset _)).trans (sampleHead_steady head _)).trans (sampleAmbient_steady ambient _)
  unfold leaveReset
  dsimp only
  refine Steady.settle ?_
  split
  · exact (h.trans (trayCensus_steady _)).trans (discover_steady _)
  · exact h.trans (discover_steady _)

/-- 1 ms changes timers alone. -/
theorem tick_steady (p : Part) : Steady own p (tick p) :=
  .quiet (offline := fun h b => by simpa [tick, Bay.tick] using h b)
    (ring := fun h => h)
    (bays := fun h => h.mono (fun n y hy => by
      simp only [tick, Fin.getElem_fin, Vector.getElem_map, Option.map_eq_some_iff] at hy
      obtain ⟨x, hx, rfl⟩ := hy
      exact ⟨x, hx, List.Sublist.refl _⟩) (List.Sublist.refl _))
    (queue := fun h => h) (verify := fun h => h) (events := .refl _ _) (jobs := rfl) (slots := rfl) (results := rfl)
    (unread := rfl) (burn := rfl) (grades := rfl) (print := rfl) (strobe := rfl) (ribbon := Nat.le_refl _)
    (thermal := rfl)

end

end Sys2Proof.Machine
end

section
/-!
PROOFS. What every command keeps, and with it the obligations on the steps: flags and masks (O12), image memory (O56),
that no step stops (O57), the tables (O58), the settings (O59) and the state after reset (O60).
-/

namespace Sys2Proof.Machine

/-! ## Frames and events -/

/-- What `k` keeps of the part and of the form of image memory, whatever frame ends in it, the link keeps that takes the
frame. -/
theorem frameEnds_steady {own : Option Link} {l : Link} {s t : State} {k : Result} (h : frameEnds l s k = .next t)
    (hk : k = .next t → Steady own s.part t.part ∧ (Memory.wf s.mem → Memory.wf t.mem)) :
    Steady own s.part t.part ∧ (Memory.wf s.mem → Memory.wf t.mem) := by
  unfold frameEnds at h
  split at h
  · cases h
    exact ⟨.refl _ _, id⟩
  · split at h
    · cases h
      exact ⟨.refl _ _, id⟩
    · exact hk h

/-- A command frame keeps what its body keeps. -/
theorem linkCommand_steady {own : Option Link} {l : Link} {payload : List Byte} {fill : Nat}
    {f : Part → Response × Part} {s t : State} (hf : Steady own s.part (f s.part).2)
    (h : linkCommand l payload fill f s = .next t) :
    Steady own s.part t.part ∧ (Memory.wf s.mem → Memory.wf t.mem) := by
  refine frameEnds_steady h fun hk => ?_
  dsimp only at hk
  split at hk
  · cases hk
    exact ⟨.refl _ _, id⟩
  · cases hk
    exact ⟨hf, id⟩

/-- A step of the part's own keeps what its function keeps. -/
theorem event_steady {own : Option Link} {f : Part → Part} {s t : State} (hf : Steady own s.part (f s.part))
    (h : event f s = .next t) : Steady own s.part t.part ∧ (Memory.wf s.mem → Memory.wf t.mem) := by
  cases h
  split
  · exact ⟨.refl _ _, id⟩
  · exact ⟨hf, id⟩

/-- The same where the command samples the pins too. -/
theorem linkCommand_steady_sampling {own : Option Link} {l : Link} {payload : List Byte} {fill : Nat}
    {f : Part → Response × Part} {pins : Pins} {s t : State} (hf : Steady own s.part (f s.part).2)
    (h : linkCommand l payload fill f { s with pins := pins } = .next t) :
    Steady own s.part t.part ∧ (Memory.wf s.mem → Memory.wf t.mem) :=
  linkCommand_steady (s := { s with pins := pins }) hf h

theorem event_steady_sampling {own : Option Link} {f : Part → Part} {pins : Pins} {s t : State}
    (hf : Steady own s.part (f s.part)) (h : event f { s with pins := pins } = .next t) :
    Steady own s.part t.part ∧ (Memory.wf s.mem → Memory.wf t.mem) :=
  event_steady (s := { s with pins := pins }) hf h

/-- A bulk frame keeps the tables, and stores bytes alone in image memory. -/
theorem takeBulk_steady {own : Option Link} {l : Link} {n : Nat} {slot : Byte} {index : BitVec 32} {data : List Byte}
    {s t : State} (h : takeBulk l n slot index data s = .next t) :
    Steady own s.part t.part ∧ (Memory.wf s.mem → Memory.wf t.mem) := by
  unfold takeBulk at h
  split at h
  · cases h
    exact ⟨.refl _ _, id⟩
  · split at h
    · cases h
      exact ⟨.refl _ _, id⟩
    · rename_i x hx
      split at h
      · split at h
        · cases h
          exact ⟨.refl _ _, id⟩
        · split at h
          · cases h
          · cases h
            exact ⟨takeBlock_steady _ x data s.part hx, writeBytes_wf _ _ _⟩
      · cases h
        exact ⟨raise_steady _ _, id⟩

theorem execImageWrite_steady {own : Option Link} {l : Link} {slot : Byte} {index : BitVec 32} {data : List Byte}
    {fill : Nat} {s t : State} (h : execImageWrite l slot index data fill s = .next t) :
    Steady own s.part t.part ∧ (Memory.wf s.mem → Memory.wf t.mem) := by
  refine frameEnds_steady h fun hk => ?_
  split at hk
  · cases hk
    exact ⟨.refl _ _, id⟩
  · exact takeBulk_steady hk

theorem execDiscardedFrame_steady {own : Option Link} {l : Link} {bytes : List Byte} {s t : State}
    (h : execDiscardedFrame l bytes s = .next t) :
    Steady own s.part t.part ∧ (Memory.wf s.mem → Memory.wf t.mem) := by
  refine frameEnds_steady h fun hk => ?_
  split at hk
  · cases hk
    exact ⟨.refl _ _, id⟩
  · cases hk
    exact ⟨.refl _ _, id⟩

theorem execResetRelease_steady {own : Option Link} {a b c : Bool} {x y : Int} {z : BitVec 3} {s t : State}
    (h : execResetRelease a b c x y z s = .next t) :
    Steady own s.part t.part ∧ (Memory.wf s.mem → Memory.wf t.mem) := by
  unfold execResetRelease at h
  split at h
  · cases h
    dsimp only
    exact ⟨leaveReset_steady a b x y s.part, id⟩
  · cases h
    exact ⟨.refl _ _, id⟩

/-- What is known of a command that leaves image memory alone. -/
theorem steady_of_mem {own : Option Link} {s t : State} (h : Steady own s.part t.part ∧ t.mem = s.mem) :
    Steady own s.part t.part ∧ (Memory.wf s.mem → Memory.wf t.mem) :=
  ⟨h.1, fun hm => h.2 ▸ hm⟩

/-! ## Every command -/

end Sys2Proof.Machine

/-- The link whose flags or mask a command may put back (R194, R201, R202). -/
def Sys2Proof.Instr.ownLink : Instr → Option Link
  | .eventsClear m _ _ => some m
  | .eventsMask m _ _ => some m
  | .linkReset m _ _ => some m
  | _ => none

namespace Sys2Proof.Machine

theorem endsEventsOf_ownLink {c : Instr} {l : Link} (h : c.ownLink = some l) : c.endsEventsOf l = true := by
  unfold Instr.ownLink at h
  split at h <;> cases h <;> simp [Instr.endsEventsOf]

/-- Every command but a tower reset keeps each condition, and the events of each link but its own. -/
theorem exec_steady {c : Instr} {s t : State} (hc : c ≠ .towerReset) (h : exec c s = .next t) :
    Steady c.ownLink s.part t.part ∧ (Memory.wf s.mem → Memory.wf t.mem) := by
  cases c with
  | imageOpen l payload fill => exact linkCommand_steady (imageOpenBody_steady _ _) h
  | imageWrite l slot index data fill => exact execImageWrite_steady h
  | imageFreeze l payload fill => exact linkCommand_steady (onSlot_steady fun n => freezeSlot_steady n _) h
  | imageRetire l payload fill => exact linkCommand_steady (onSlot_steady fun n => retireSlot_steady n _) h
  | imageThaw l payload fill => exact linkCommand_steady (onSlot_steady fun n => thawSlot_steady n _) h
  | imageStatus l payload fill => exact linkCommand_steady (onSlot_steady fun n => .refl _ _) h
  | jobDefine l payload fill => exact linkCommand_steady (jobDefineBody_steady _ _) h
  | jobAmend l payload fill => exact linkCommand_steady (jobAmendBody_steady _ _) h
  | jobQueue l payload fill => exact linkCommand_steady (onJobByte_steady fun j x hx => queueJob_steady j x _ hx) h
  | jobHalt l payload fill => exact linkCommand_steady (onJobByte_steady fun j x hx => haltJob_steady j x _ hx) h
  | jobResume l payload fill => exact linkCommand_steady (onJobByte_steady fun j x hx => resumeJob_steady j x _ hx) h
  | jobCancel l payload fill => exact linkCommand_steady (onJobByte_steady fun j x hx => cancelJob_steady j x _ hx) h
  | jobRemove l payload fill => exact linkCommand_steady (onJobByte_steady fun j x hx => removeJob_steady j x _ hx) h
  | jobStatus l payload fill => exact linkCommand_steady (onJobByte_steady fun _ _ _ => .refl _ _) h
  | moveNext l payload fill => exact linkCommand_steady (noPayload_steady (nextMove_steady _)) h
  | moveDone l payload fill => exact linkCommand_steady (moveDoneBody_steady _ _) h
  | moveFailedNoDisc l payload fill => exact linkCommand_steady (moveFailedBody_steady fun o => spindleBare_steady o _) h
  | moveFailedDropped l payload fill => exact linkCommand_steady (moveFailedBody_steady fun o => discLost_steady o _) h
  | moveFailedJam l payload fill => exact linkCommand_steady (moveFailedBody_steady fun o => armJammed_steady o _) h
  | flowResume l payload fill => exact linkCommand_steady (noPayload_steady (resumeFlow_steady _)) h
  | spindleReport l payload fill => exact linkCommand_steady (spindleReportBody_steady _ _) h
  | binReport l payload fill => exact linkCommand_steady (binReportBody_steady _ _) h
  | discRead l payload fill => exact linkCommand_steady (by rw [discReadBody_part]; exact .refl _ _) h
  | bayEnable l payload fill => exact linkCommand_steady (onBay_steady fun b => enableBay_steady b _) h
  | bayDisable l payload fill => exact linkCommand_steady (onBay_steady fun b => disableBay_steady b _) h
  | bayStatus l payload fill => exact linkCommand_steady (onBay_steady fun _ => .refl _ _) h
  | housekeepingTimerExpiry b => exact event_steady (housekeepingExpires_steady b _) h
  | probeTimerExpiry b => exact event_steady (probeExpires_steady b _) h
  | serviceRound => exact event_steady (beginRound_steady _) h
  | grant ready => exact steady_of_mem (execGrant_steady h)
  | grantPauseExpiry => exact event_steady (pauseEnds_steady _) h
  | busCommandTaken lanes attn => exact event_steady_sampling (commandDone_steady lanes attn _) h
  | busCommandLimit lanes attn => exact event_steady_sampling (commandDone_steady lanes attn _) h
  | messageTaken => exact event_steady (messageDone_steady _) h
  | messageLimit => exact event_steady (messageDone_steady _) h
  | blockAccepted => exact event_steady (blockAccepted_steady _) h
  | blockAbandoned => exact event_steady (blockAbandoned_steady _) h
  | readbackBlockTaken data trailer =>
    exact event_steady (by split; exacts [readbackTaken_steady _ _, .refl _ _]) h
  | readbackTurnEmpty => exact event_steady (turnEmpty_steady _) h
  | statusReadAnswered r attn => exact event_steady_sampling (readAnswered_steady r attn _) h
  | statusReadUnanswered attn => exact event_steady_sampling (readUnanswered_steady attn _) h
  | attnRise => exact event_steady_sampling (judgePoll_steady true _) h
  | attentionHoldOffExpiry attn => exact event_steady_sampling (holdOffEnds_steady attn _) h
  | burnSettings l payload fill => exact linkCommand_steady (burnSettingsBody_steady _ _) h
  | sessionStatus l payload fill =>
    exact linkCommand_steady (by unfold sessionStatusBody; (repeat' split) <;> exact .refl _ _) h
  | gatherTimerExpiry n => exact event_steady (gatherExpires_steady n _) h
  | prepareDeadlineExpiry n => exact event_steady (prepareExpires_steady n _) h
  | stallTimerExpiry n => exact event_steady (stallExpires_steady n _) h
  | closeDeadlineExpiry n => exact event_steady (closeExpires_steady n _) h
  | blockProcessed k => exact event_steady (f := fun p => settle (processBlock k p)) (processBlock_steady k _).settle h
  | silenceTimerExpiry k => exact event_steady (silenceExpires_steady k _) h
  | verifyLimits l payload fill => exact linkCommand_steady (verifyLimitsBody_steady _ _) h
  | verifyStatus l payload fill => exact linkCommand_steady (noPayload_steady (.refl _ _)) h
  | lineBegin v => exact steady_of_mem (execLineBegin_steady h)
  | lineFired => exact event_steady (lineFired_steady _) h
  | coolingGapEnd => exact event_steady (gapEnds_steady _) h
  | hotTimerExpiry => exact event_steady (hotExpires_steady _) h
  | ribbonBreak => exact event_steady_sampling (ribbonBreaks_steady _) h
  | printSettings l payload fill => exact linkCommand_steady (printSettingsBody_steady _ _) h
  | ribbonLoaded l payload fill b => exact linkCommand_steady_sampling (ribbonLoadedBody_steady _ _ _) h
  | printerStatus l payload fill b t => exact linkCommand_steady_sampling (noPayload_steady (.refl _ _)) h
  | headPeriodicSample v => exact event_steady (f := fun p => settle (headPeriodic v p)) (headPeriodic_steady v _).settle h
  | ambientPeriodicSample v =>
    exact event_steady (f := fun p => settle (sampleAmbient v p)) (sampleAmbient_steady v _).settle h
  | thermalLimits l payload fill => exact linkCommand_steady (thermalLimitsBody_steady _ _) h
  | thermalRead l payload fill => exact linkCommand_steady (noPayload_steady (.refl _ _)) h
  | summaryRead l sent => exact frameEnds_steady h fun hk => by cases hk; exact ⟨.refl _ _, id⟩
  | nullCommand l payload fill => exact linkCommand_steady (.refl _ _) h
  | discardedFrame l bytes => exact execDiscardedFrame_steady h
  | linkReset l payload fill => exact linkCommand_steady (noPayload_steady (resetLink_steady l _)) h
  | eventsRead l payload fill => exact linkCommand_steady (noPayload_steady (.refl _ _)) h
  | eventsClear l payload fill => exact linkCommand_steady (withFlags_steady fun x => clearEvents_steady l x _) h
  | eventsMask l payload fill => exact linkCommand_steady (withFlags_steady fun x => maskEvents_steady l x _) h
  | resultsRead l payload fill => exact linkCommand_steady (resultsReadBody_steady l _ _) h
  | towerReset => exact absurd rfl hc
  | resetRelease a b c x y z => exact execResetRelease_steady h

/-! ## The obligations -/

/-- Settles O12: every command but a tower reset keeps the events of each link but the one it puts back. -/
theorem flagsAndMasksStay : Obligations.FlagsAndMasksStay := by
  unfold Obligations.FlagsAndMasksStay
  intro c s t l hl h
  have hc : c ≠ .towerReset := by
    rintro rfl
    cases hl
  refine (exec_steady hc h).1.events l fun hown => ?_
  simp [endsEventsOf_ownLink hown] at hl

/-- Settles O60: right after reset every table is empty and every setting at its default. -/
theorem resetMeetsTheInvariants : Obligations.ResetMeetsTheInvariants := by
  have hbay : ∀ b : BayNum, State.reset.part.bays[b] = Bay.reset := fun b => Vector.getElem_replicate b.isLt
  have hsession : ∀ n : SessionNum, State.reset.part.engine.sessions[n] = none :=
    fun n => Vector.getElem_replicate n.isLt
  have hslot : ∀ n : SlotNum, State.reset.part.slots[n] = none := fun n => Vector.getElem_replicate n.isLt
  unfold Obligations.ResetMeetsTheInvariants
  refine ⟨reset_mem_wf, ⟨fun n x hx => ?_, fun m n x y _ hx => ?_⟩, ?places, ⟨?ring, fun l => ?unread⟩,
    ⟨List.Pairwise.nil, fun o ho => ?queue⟩, ?settings, fun n => ?refs, fun b => ?offline, ⟨List.nodup_nil, ?_⟩,
    ⟨fun n x hx => ?_, fun m n x y hx => ?_, List.nodup_nil, fun n x hx => ?_⟩, List.nodup_nil⟩
  case places => unfold TwoPlaces; decide
  case ring => decide
  case unread => revert l; decide
  case queue => cases ho
  case settings => constructor <;> first | decide | (unfold LimitPair.legal; decide)
  case refs => rw [hslot]; revert n; unfold SlotCounts; decide
  case offline => rw [hbay]; decide
  all_goals simp_all [State.reset, Part.reset, Bus.reset]

/-- A step keeps what every command keeps, what 1 ms keeps and what holds of the state after reset. -/
theorem step_keeps {P : Part → Prop} {s t : State} (hreset : P Part.reset)
    (hsteady : ∀ {own : Option Link} {q : Part}, Steady own s.part q → P q) (h : step s = .next t) : P t.part := by
  unfold step at h
  split at h
  · rename_i c rest _
    by_cases hc : c = .towerReset
    · subst hc
      cases h
      exact hreset
    · exact hsteady (exec_steady hc h).1
  · cases h
    split
    · exact hsteady (own := none) (.refl _ _)
    · exact hsteady (own := none) (tick_steady _)

theorem step_keeps_memory {s t : State} (hs : Memory.wf s.mem) (h : step s = .next t) : Memory.wf t.mem := by
  unfold step at h
  split at h
  · rename_i c rest _
    by_cases hc : c = .towerReset
    · subst hc
      cases h
      exact reset_mem_wf
    · exact (exec_steady hc h).2 hs
  · cases h
    split <;> exact hs

/-- Settles O56: an IMAGE WRITE stores bytes, which keeps the canonical form, and an extent is given by first fit. -/
theorem stepKeepsImageMemory : Obligations.StepKeepsImageMemory := by
  unfold Obligations.StepKeepsImageMemory
  intro s t hmem hext h
  obtain ⟨-, hreset, -⟩ := resetMeetsTheInvariants
  exact ⟨step_keeps_memory hmem h, step_keeps hreset (fun hs => hs.extents hext) h⟩

/-- Settles O58: each condition is one of those that every command keeps. -/
theorem stepKeepsTheTables : Obligations.StepKeepsTheTables := by
  unfold Obligations.StepKeepsTheTables
  obtain ⟨-, -, hplaces, hresults, hqueue, -, hrefs, honce⟩ := resetMeetsTheInvariants
  refine ⟨fun s t hs h => ?_, fun s t hs h => ?_, fun s t hs h => ?_, fun s t hs h => ?_, fun s t => ?_⟩
  · exact step_keeps hplaces (fun k => k.places hs) h
  · exact step_keeps hresults (fun k => k.results hs) h
  · exact step_keeps hqueue (fun k => k.queue hs) h
  · exact step_keeps hrefs (fun k => k.refs hs) h
  · rintro once ⟨hoffline, hring, hbays, hverify⟩ h
    exact step_keeps honce
      (fun k => ⟨k.offline hoffline, k.ring hring, k.bays hbays, k.verify hverify⟩) h

/-- Settles O59: the commands that write a setting settle it within its range. -/
theorem stepKeepsSettings : Obligations.StepKeepsSettings := by
  unfold Obligations.StepKeepsSettings
  intro s t hs h
  obtain ⟨-, -, -, -, -, hreset, -⟩ := resetMeetsTheInvariants
  exact step_keeps hreset (fun k => k.settings hs) h

/-! ## No step stops -/

/-- A command frame goes on. -/
theorem linkCommand_goes (l : Link) (payload : List Byte) (fill : Nat) (f : Part → Response × Part) (s : State) :
    ∃ t, linkCommand l payload fill f s = .next t := by
  unfold linkCommand frameEnds
  dsimp only
  (repeat' split) <;> exact ⟨_, rfl⟩

theorem inMemory_of_extents {p : Part} (h : ExtentsApart p) {n : SlotNum} {x : Slot} (hx : p.slots[n] = some x) :
    x.inMemory = true := by
  simpa [Slot.inMemory] using h.1 n x hx

theorem execImageWrite_goes {l : Link} {slot : Byte} {index : BitVec 32} {data : List Byte} {fill : Nat} {s : State}
    (h : ExtentsApart s.part) : ∃ t, execImageWrite l slot index data fill s = .next t := by
  unfold execImageWrite frameEnds takeBulk
  split
  · exact ⟨_, rfl⟩
  · split
    · exact ⟨_, rfl⟩
    · split
      · exact ⟨_, rfl⟩
      · split
        · exact ⟨_, rfl⟩
        · split
          · exact ⟨_, rfl⟩
          · rename_i x hx
            simp only [inMemory_of_extents h hx, Bool.not_true, Bool.false_eq_true, if_false]
            (repeat' split) <;> exact ⟨_, rfl⟩

theorem grantBroadcast_goes {n : SessionNum} {x : Session} {ready : Bool} {s : State} (h : ExtentsApart s.part) :
    ∃ t, grantBroadcast n x ready s = .next t := by
  unfold grantBroadcast
  dsimp only
  split
  · exact ⟨_, rfl⟩
  · split
    · exact ⟨_, rfl⟩
    · rename_i y hy
      simp only [inMemory_of_extents h hy, Bool.not_true, Bool.false_eq_true, if_false]
      exact ⟨_, rfl⟩

theorem execGrant_goes {ready : Bool} {s : State} (h : ExtentsApart s.part) : ∃ t, execGrant ready s = .next t := by
  unfold execGrant makeGrant
  split
  · exact ⟨_, rfl⟩
  · split
    · split
      · split
        · exact grantBroadcast_goes h
        · exact ⟨_, rfl⟩
      · split <;> exact ⟨_, rfl⟩
    · exact ⟨_, rfl⟩

theorem execLineBegin_goes {v : Int} {s : State} (h : ExtentsApart s.part) : ∃ t, execLineBegin v s = .next t := by
  unfold execLineBegin
  split
  · rename_i l _
    have hl : labelInMemory s.part l = true := by
      unfold labelInMemory
      split
      · rename_i x hx
        exact inMemory_of_extents h hx
      · rfl
    simp only [hl, Bool.not_true, Bool.false_eq_true, if_false]
    split <;> exact ⟨_, rfl⟩
  · exact ⟨_, rfl⟩

/-- A command goes on: but for the three that read or write image memory, because a frame, an event or a reset does. -/
theorem exec_goes (c : Instr) {s : State} (h : ExtentsApart s.part) : ∃ t, exec c s = .next t := by
  cases c with
  | imageWrite l slot index data fill => exact execImageWrite_goes h
  | grant ready => exact execGrant_goes h
  | lineBegin v => exact execLineBegin_goes h
  | summaryRead l sent =>
    simp only [exec, execSummaryRead, frameEnds]
    (repeat' split) <;> exact ⟨_, rfl⟩
  | discardedFrame l bytes =>
    simp only [exec, execDiscardedFrame, frameEnds]
    (repeat' split) <;> exact ⟨_, rfl⟩
  | towerReset => exact ⟨_, rfl⟩
  | resetRelease a b c x y z =>
    simp only [exec, execResetRelease]
    split <;> exact ⟨_, rfl⟩
  | _ => first | exact linkCommand_goes .. | exact ⟨_, rfl⟩

/-- Settles O57: the fault is raised only for an extent that reaches beyond image memory. -/
theorem stepsNeverStop : Obligations.StepsNeverStop := by
  unfold Obligations.StepsNeverStop
  intro s h
  unfold step
  split
  · exact exec_goes _ h
  · exact ⟨_, rfl⟩

end Sys2Proof.Machine
end

section
/-!
PROOFS. The queue, the clock and tower reset: a step of the model's own form (O1), 1 ms on an empty queue (O2), the state
that a tower reset leaves (O54), and a part that is held (O3).
-/

namespace Sys2Proof.Machine

/-! ## Steps -/

/-- A step runs the front of the queue. -/
theorem step_cons {c : Instr} {rest : List Instr} {s : State} (h : s.pending = c :: rest) :
    step s = exec c { s with pending := rest } := by
  simp only [step, h]

/-- On an empty queue 1 ms passes, unless the part is held. -/
theorem step_nil {s : State} (h : s.pending = []) :
    step s = .next (if s.part.held then s else { s with part := tick s.part }) := by
  simp only [step, h]

/-- Settles O1: the step is defined by the front of the queue. -/
theorem stepTakesTheFront : Obligations.StepTakesTheFront := by
  unfold Obligations.StepTakesTheFront
  intro c rest s h
  exact step_cons h

/-- Settles O2: a held part stays as it is, and one that is awake has its timers let down by `tick`. -/
theorem emptyQueueLetsTimePass : Obligations.EmptyQueueLetsTimePass := by
  unfold Obligations.EmptyQueueLetsTimePass
  intro s h
  refine ⟨_, step_nil h, ?_⟩
  cases hheld : s.part.held with
  | true => exact ⟨⟨rfl, rfl, fun _ => rfl⟩, rfl, fun _ => rfl, fun hf => by cases hf⟩
  | false =>
    refine ⟨⟨rfl, rfl, fun _ => rfl⟩, rfl, fun ht => (by cases ht), fun _ => ⟨?bays, rfl, ?sessions, ?places, rfl,
      rfl, rfl, rfl⟩⟩
    case bays => exact fun b => Vector.getElem_map Bay.tick b.isLt
    case sessions => exact fun n => Vector.getElem_map (Option.map Session.tick) n.isLt
    case places => exact fun k => Vector.getElem_map (Option.map Readback.tick) k.isLt

/-! ## Tower reset -/

/-- Settles O54: the part is put to its reset value, of which each field is read off. -/
theorem towerResetEmptiesTheTower : Obligations.TowerResetEmptiesTheTower := by
  unfold Obligations.TowerResetEmptiesTheTower
  intro s
  refine ⟨_, rfl, rfl, rfl, rfl, ?_⟩
  simp [State.reset, Part.reset, Port.reset, LinkEvents.reset, Flow.reset, Bay.reset, Bus.reset, Engine.reset,
    Verifier.reset, Printer.reset, Thermal.reset, Sensor.reset, attention]

/-! ## A part that is held, and a select that straddles the release -/

/-- A frame that ends while the part is held comes to nothing (R195). -/
theorem frameEnds_held {l : Link} {s : State} (h : s.part.held = true) (k : Result) : frameEnds l s k = .next s := by
  simp only [frameEnds, h, if_true]

/-- A frame that straddles the release is not taken: only the straddling ends (R196). -/
theorem frameEnds_straddling {l : Link} {s : State} (h : s.part.held = false) (hs : s.ports[l].straddling = true)
    (k : Result) : frameEnds l s k = .next (setPort l s.ports[l].risen s) := by
  simp only [frameEnds, h, hs, Bool.false_eq_true, if_false, if_true]

/-- A held part does no work of its own (R195). -/
theorem event_held {s : State} (h : s.part.held = true) (f : Part → Part) : event f s = .next s := by
  simp only [event, h, if_true]

/-- A command that comes on a link is a frame that ends there, of the state itself or with switches sampled. -/
theorem exec_frame {c : Instr} {l : Link} (h : c.linkOf = some l) (s : State) :
    ∃ (pins : Pins) (k : Result), exec c s = frameEnds l { s with pins := pins } k := by
  cases c <;> cases h <;> exact ⟨_, _, rfl⟩

/-- A command that comes on no link and is none of the RESET pin's leaves a held part, with pins sampled at most. -/
theorem exec_held {c : Instr} {s : State} (hheld : s.part.held = true) (hl : c.linkOf = none)
    (hr : c.isReset = false) : ∃ pins : Pins, exec c s = .next { s with pins := pins } := by
  have hevent : ∀ (f : Part → Part) (pins : Pins),
      ∃ pins' : Pins, event f { s with pins := pins } = .next { s with pins := pins' } :=
    fun f pins => ⟨pins, event_held (s := { s with pins := pins }) hheld f⟩
  cases c with
  | grant ready => exact ⟨s.pins, by simp [exec, execGrant, hheld]⟩
  | lineBegin v =>
    refine ⟨s.pins, ?_⟩
    simp only [exec, execLineBegin, hheld, Bool.true_or, if_true]
    split <;> rfl
  | towerReset => cases hr
  | resetRelease => cases hr
  | blockProcessed k => exact hevent (fun p => settle (processBlock k p)) s.pins
  | headPeriodicSample v => exact hevent (fun p => settle (headPeriodic v p)) s.pins
  | ambientPeriodicSample v => exact hevent (fun p => settle (sampleAmbient v p)) s.pins
  | _ => first | exact hevent _ s.pins | exact hevent _ _ | cases hl

/-- Settles O3: a held part takes no frame and does no work, and a straddling select ends without a frame. -/
theorem resetHoldsFramesOff : Obligations.ResetHoldsFramesOff := by
  unfold Obligations.ResetHoldsFramesOff
  refine ⟨fun c s hheld hr => ?held, fun l s => ⟨fun h => ?_, fun h => ?_⟩, fun c l s hl hheld hs => ?straddling,
    fun l pins => ⟨rfl, fun s hopen => ?empty⟩⟩
  case held =>
    cases hl : c.linkOf with
    | none =>
      obtain ⟨pins, h⟩ := exec_held hheld hl hr
      exact ⟨_, h, rfl, fun _ => rfl, rfl, rfl⟩
    | some l =>
      obtain ⟨pins, k, h⟩ := exec_frame hl s
      exact ⟨_, h.trans (frameEnds_held (s := { s with pins := pins }) hheld k), rfl, fun _ => rfl, rfl, rfl⟩
  case straddling =>
    obtain ⟨pins, k, h⟩ := exec_frame hl s
    refine ⟨_, h.trans (frameEnds_straddling (s := { s with pins := pins }) hheld hs k), rfl, fun _ => rfl, rfl, ?_,
      fun m hm => ?_⟩
    · exact put_get_self ..
    · exact put_get_other _ _ _ _ hm
  case empty => exact frameEnds_open hopen _
  · simp only [dataOutputs, h, if_true]
  · simp only [dataOutputs, h, Bool.false_eq_true, if_false]
    rfl

end Sys2Proof.Machine
end

section
/-!
PROOFS. Frames (10.1, 10.2): the bytes that a command is clocked with are judged to be that command again (O4), and what
is taken or discarded is what the bytes say (O5).
-/

namespace Sys2Proof.Machine

/-! ## Lengths -/

@[simp] theorem le16_length (n : Nat) : (le16 n).length = 2 := rfl

@[simp] theorem le32_length (n : Nat) : (le32 n).length = 4 := rfl

@[simp] theorem commandHead_length (code : Nat) (p : List Byte) : (commandHead code p).length = 3 + p.length := by
  simp [commandHead]
  omega

@[simp] theorem commandFrame_length (code : Nat) (p : List Byte) : (commandFrame code p).length = 5 + p.length := by
  simp [commandFrame]
  omega

@[simp] theorem bulkHead_length (slot : Byte) (index : BitVec 32) (data : List Byte) :
    (bulkHead slot index data).length = 6 + data.length := by
  simp [bulkHead]
  omega

@[simp] theorem bulkFrame_length (slot : Byte) (index : BitVec 32) (data : List Byte) :
    (bulkFrame slot index data).length = 10 + data.length := by
  simp [bulkFrame]
  omega

/-! ## A frame read back -/

/-- A frame of two bytes or more is judged by its first byte. -/
theorem judgeFrame_cons (c b : Byte) (rest : List Byte) :
    judgeFrame (c :: b :: rest) =
      if c.toNat = 2 then judgeBulk (b :: rest)
      else if c.toNat ≤ 38 then judgeCommand c.toNat (b :: rest) else .unknown := rfl

/-- A command frame with fill behind it is taken, with its code and its payload. -/
theorem judgeFrame_commandFrame {code : Nat} {p : List Byte} (hcode : code ≤ 38) (hbulk : code ≠ 2)
    (hlen : p.length ≤ 240) (fill : List Byte) : judgeFrame (commandFrame code p ++ fill) = .command code p := by
  have hc : (byte code).toNat = code := byte_toNat (by omega)
  have hn : num16 (byte p.length) (byte (p.length / 256)) = p.length := num16_le16 (by omega)
  have hjudge : judgeFrame (commandFrame code p ++ fill) =
      judgeCommand code (byte p.length :: byte (p.length / 256) ::
        (p ++ (le16 (crc16 (commandHead code p)).toNat ++ fill))) := by
    simp only [commandFrame, commandHead, le16, List.cons_append, List.nil_append, List.append_assoc, judgeFrame_cons,
      hc, if_neg hbulk, if_pos hcode]
  rw [hjudge]
  simp only [judgeCommand, hn]
  rw [if_neg (by simpa [Config.maxPayload] using hlen), if_neg (by simp; omega), List.take_left, List.drop_left,
    if_pos (List.take_left' (le16_length _))]

/-- A bulk frame with fill behind it is taken, with its slot, its index and its data. -/
theorem judgeFrame_bulkFrame (slot : Byte) (index : BitVec 32) {data : List Byte} (hlen : data.length = 65536)
    (fill : List Byte) : judgeFrame (bulkFrame slot index data ++ fill) = .bulk slot index data := by
  have hn : BitVec.ofNat 32 (num32 (byte index.toNat) (byte (index.toNat / 256)) (byte (index.toNat / 65536))
      (byte (index.toNat / 16777216))) = index := by
    rw [num32_le32 index.isLt, BitVec.ofNat_toNat, BitVec.setWidth_eq]
  have hjudge : judgeFrame (bulkFrame slot index data ++ fill) =
      judgeBulk (slot :: byte index.toNat :: byte (index.toNat / 256) :: byte (index.toNat / 65536) ::
        byte (index.toNat / 16777216) :: (data ++ (le32 (crc32 (bulkHead slot index data)).toNat ++ fill))) := by
    simp only [bulkFrame, bulkHead, le32, List.cons_append, List.nil_append, List.append_assoc, judgeFrame_cons]
    rfl
  rw [hjudge]
  simp only [judgeBulk, hn]
  rw [if_neg (by simp [hlen]), List.take_left' hlen, List.drop_left' hlen,
    if_pos (List.take_left' (le32_length _))]

/-- A command frame with fill behind it is the command that its code spells. -/
theorem frameCommand_commandFrame (l : Link) (pins : Pins) {code : Nat} {p : List Byte} (hcode : code ≤ 38)
    (hbulk : code ≠ 2) (hlen : p.length ≤ 240) (n : Nat) :
    frameCommand l pins (commandFrame code p ++ List.replicate n 0) = commandFrom l pins code p n := by
  unfold frameCommand
  rw [judgeFrame_commandFrame hcode hbulk hlen]
  simp

/-- A command that is sent as a command frame, sent so that its code is known and its payload fits. -/
theorem commandOf_code {i : Instr} {code : Nat} {p : List Byte} (h : commandOf i = some (code, p)) :
    code ≤ 38 ∧ code ≠ 2 := by
  cases i <;> cases h <;> decide

theorem commandOf_fits {i : Instr} {code : Nat} {p : List Byte} (h : commandOf i = some (code, p))
    (hwf : i.wellFormed = true) : p.length ≤ 240 := by
  cases i <;> cases h <;> simp_all [Instr.wellFormed, commandOf]

/-- The code, the payload and the fill of a command spell that command again (12.3). -/
theorem commandFrom_commandOf {i : Instr} {l : Link} {pins : Pins} {code : Nat} {p : List Byte}
    (h : commandOf i = some (code, p)) (hwf : i.wellFormed = true) (hl : i.linkOf = some l)
    (hpins : i.switchesAgree pins) : commandFrom l pins code p (fillOf i) = some i := by
  cases i with
  | moveFailedNoDisc m q n | moveFailedDropped m q n | moveFailedJam m q n =>
    cases h
    cases hl
    simp only [Instr.wellFormed, Bool.and_eq_true, beq_iff_eq] at hwf
    exact congrArg some hwf.2
  | ribbonLoaded m q n b =>
    cases h
    cases hl
    simp only [Instr.switchesAgree] at hpins
    simp only [commandFrom, fillOf, hpins]
  | printerStatus m q n b t =>
    cases h
    cases hl
    simp only [Instr.switchesAgree] at hpins
    simp only [commandFrom, fillOf, hpins]
  | _ => cases h <;> cases hl <;> rfl

/-- The bytes of a command that is sent as a command frame. -/
theorem frameOf_commandOf {i : Instr} {bytes : List Byte} (h : frameOf i = some bytes) :
    (∃ code p, commandOf i = some (code, p) ∧ bytes = commandFrame code p ++ List.replicate (fillOf i) 0) ∨
    (∃ l slot index data n, i = .imageWrite l slot index data n ∧
      bytes = bulkFrame slot index data ++ List.replicate n 0) ∨
    (∃ l b, i = .summaryRead l b ∧ bytes = [b]) ∨ ∃ l, i = .discardedFrame l bytes := by
  cases i with
  | imageWrite l slot index data n =>
    cases h
    exact .inr (.inl ⟨l, slot, index, data, n, rfl, rfl⟩)
  | summaryRead l b =>
    cases h
    exact .inr (.inr (.inl ⟨l, b, rfl, rfl⟩))
  | discardedFrame l b =>
    cases h
    exact .inr (.inr (.inr ⟨l, rfl⟩))
  | _ => cases h <;> exact .inl ⟨_, _, rfl, rfl⟩

/-- Settles O4: a command frame, a bulk frame, a single byte and a discarded frame are each judged to be what they are. -/
theorem framesReadBack : Obligations.FramesReadBack := by
  unfold Obligations.FramesReadBack
  intro i l pins bytes hwf hl hpins hframe
  rcases frameOf_commandOf hframe with ⟨code, p, hof, rfl⟩ | ⟨m, slot, index, data, n, rfl, rfl⟩ | ⟨m, b, rfl, rfl⟩ |
    ⟨m, rfl⟩
  · obtain ⟨hcode, hbulk⟩ := commandOf_code hof
    rw [frameCommand_commandFrame l pins hcode hbulk (commandOf_fits hof hwf)]
    exact commandFrom_commandOf hof hwf hl hpins
  · cases hl
    have hlen : data.length = 65536 := by simpa [Instr.wellFormed] using hwf
    unfold frameCommand
    rw [judgeFrame_bulkFrame slot index hlen]
    simp [hlen]
  · cases hl
    rfl
  · cases hl
    unfold frameCommand
    simp only [Instr.wellFormed, Bool.or_eq_true, List.isEmpty_iff] at hwf
    rcases hwf with rfl | hwf
    · rfl
    · split <;> simp_all [discardResponse]

/-! ## A frame judged -/

/-- What a command frame is taken for is what its bytes are. -/
theorem judgeCommand_taken {code : Nat} {bytes p : List Byte} {c : Nat} (h : judgeCommand code bytes = .command c p) :
    c = code ∧ p.length ≤ 240 ∧
      ∃ fill, byte code :: bytes = commandFrame code p ++ fill := by
  unfold judgeCommand at h
  split at h
  · rename_i b0 b1 rest
    dsimp only at h
    split at h
    · cases h
    · rename_i hmax
      split at h
      · cases h
      · rename_i hshort
        split at h
        · rename_i hcrc
          cases h
          have htake : (rest.take (num16 b0 b1)).length = num16 b0 b1 := List.length_take_of_le (by omega)
          refine ⟨rfl, by rw [htake]; simpa [Config.maxPayload] using hmax, (rest.drop (num16 b0 b1)).drop 2, ?_⟩
          calc byte code :: b0 :: b1 :: rest
              = byte code :: b0 :: b1 :: (rest.take (num16 b0 b1) ++
                  ((rest.drop (num16 b0 b1)).take 2 ++ (rest.drop (num16 b0 b1)).drop 2)) := by
                rw [List.take_append_drop, List.take_append_drop]
            _ = commandFrame code (rest.take (num16 b0 b1)) ++ (rest.drop (num16 b0 b1)).drop 2 := by
                rw [hcrc]
                simp only [commandFrame, commandHead, htake, le16_num16, List.cons_append, List.nil_append,
                  List.append_assoc]
        · cases h
  · cases h

/-- What a bulk frame is taken for is what its bytes are. -/
theorem judgeBulk_taken {bytes data : List Byte} {slot : Byte} {index : BitVec 32}
    (h : judgeBulk bytes = .bulk slot index data) :
    data.length = 65536 ∧ ∃ fill, byte 2 :: bytes = bulkFrame slot index data ++ fill := by
  unfold judgeBulk at h
  split at h
  · rename_i s i0 i1 i2 i3 rest
    split at h
    · cases h
    · rename_i hshort
      dsimp only at h
      split at h
      · rename_i hcrc
        cases h
        have htake : (rest.take 65536).length = 65536 := List.length_take_of_le (by simp [Config.blockBytes] at hshort; omega)
        refine ⟨htake, (rest.drop 65536).drop 4, ?_⟩
        have hindex : le32 (BitVec.ofNat 32 (num32 i0 i1 i2 i3)).toNat = [i0, i1, i2, i3] := by
          rw [BitVec.toNat_ofNat, Nat.mod_eq_of_lt (num32_lt i0 i1 i2 i3), le32_num32]
        calc byte 2 :: slot :: i0 :: i1 :: i2 :: i3 :: rest
            = byte 2 :: slot :: i0 :: i1 :: i2 :: i3 :: (rest.take 65536 ++
                ((rest.drop 65536).take 4 ++ (rest.drop 65536).drop 4)) := by
              rw [List.take_append_drop, List.take_append_drop]
          _ = _ := by
              rw [hcrc]
              simp only [bulkFrame, bulkHead, hindex, List.cons_append, List.nil_append, List.append_assoc]
              rfl
      · cases h
  · cases h

theorem byte_toNat_self (c : Byte) : byte c.toNat = c := by
  simp [byte]

theorem judgeBulk_ne_command {bytes p : List Byte} {code : Nat} : judgeBulk bytes ≠ .command code p := by
  unfold judgeBulk
  dsimp only
  split
  · split
    · nofun
    · split <;> nofun
  · nofun

theorem judgeCommand_ne_bulk {bytes data : List Byte} {code : Nat} {slot : Byte} {index : BitVec 32} :
    judgeCommand code bytes ≠ .bulk slot index data := by
  unfold judgeCommand
  dsimp only
  split
  · split
    · nofun
    · split
      · nofun
      · split <;> nofun
  · nofun

/-- What a frame is taken for is what its bytes are, with fill behind it. -/
theorem judgeFrame_taken (bytes : List Byte) :
    (∀ (code : Nat) (p : List Byte), judgeFrame bytes = .command code p →
       p.length ≤ 240 ∧ code ≤ 38 ∧ code ≠ 2 ∧ ∃ fill, bytes = commandFrame code p ++ fill) ∧
    (∀ (slot : Byte) (index : BitVec 32) (data : List Byte), judgeFrame bytes = .bulk slot index data →
       data.length = 65536 ∧ ∃ fill, bytes = bulkFrame slot index data ++ fill) := by
  match bytes with
  | [] => exact ⟨nofun, nofun⟩
  | [_] => exact ⟨nofun, nofun⟩
  | c :: b :: rest =>
    rw [judgeFrame_cons]
    refine ⟨fun code p h => ?_, fun slot index data h => ?_⟩
    · split at h
      · exact absurd h judgeBulk_ne_command
      · rename_i hbulk
        split at h
        · rename_i hcode
          obtain ⟨rfl, hlen, fill, hfill⟩ := judgeCommand_taken h
          rw [byte_toNat_self] at hfill
          exact ⟨hlen, hcode, hbulk, fill, hfill⟩
        · cases h
    · split at h
      · rename_i hc
        obtain ⟨hlen, fill, hfill⟩ := judgeBulk_taken h
        rw [← hc, byte_toNat_self] at hfill
        exact ⟨hlen, fill, hfill⟩
      · split at h
        · exact absurd h judgeCommand_ne_bulk
        · cases h

/-- A frame that its checks discard leaves the response of its verdict pending, and has no other effect. -/
theorem discardedFrame_completes {l : Link} {bytes : List Byte} {s : State} {v : Verdict} {r : Response}
    (hopen : LinkOpen l s) (hv : judgeFrame bytes = v) (hr : discardResponse v = some r) :
    CompletesIn (.discardedFrame l bytes) l bytes.length s r s.part := by
  refine ⟨answered l bytes.length s r s.part, ?_, ⟨rfl, rfl, fun _ => rfl⟩, answered_with .., rfl⟩
  simp only [exec, execDiscardedFrame, hv, hr, frameEnds_open hopen]

/-- The checks of a command frame of three bytes or more, in terms of its bytes (R186). -/
theorem judgeCommand_cons (c b0 b1 : Byte) (body : List Byte) :
    judgeCommand c.toNat (b0 :: b1 :: body) =
      if 240 < num16 b0 b1 then .crcFault
      else if body.length < num16 b0 b1 + 2 then .short
      else if (body.drop (num16 b0 b1)).take 2 =
          le16 (crc16 ((c :: b0 :: b1 :: body).take (3 + num16 b0 b1))).toNat then
        .command c.toNat (body.take (num16 b0 b1))
      else .crcFault := by
  have hhead : ¬ body.length < num16 b0 b1 + 2 →
      commandHead c.toNat (body.take (num16 b0 b1)) = (c :: b0 :: b1 :: body).take (3 + num16 b0 b1) := by
    intro hlen
    have htake : (body.take (num16 b0 b1)).length = num16 b0 b1 := List.length_take_of_le (by omega)
    simp only [commandHead, htake, le16_num16, byte_toNat_self, Nat.add_comm 3, List.take_succ_cons, List.cons_append,
      List.nil_append]
  simp only [judgeCommand, Config.maxPayload]
  split
  · rfl
  · split
    · rfl
    · rename_i hlen
      rw [hhead hlen]

/-- A bulk frame that is not whole is SHORT, and one whose check differs is a CRC_FAULT (R187). -/
theorem judgeBulk_discards (c b0 : Byte) (rest : List Byte) (hc : c.toNat = 2) :
    ((c :: b0 :: rest).length < 65546 → judgeBulk (b0 :: rest) = .short) ∧
    (65546 ≤ (c :: b0 :: rest).length →
      ((c :: b0 :: rest).drop 65542).take 4 ≠ le32 (crc32 ((c :: b0 :: rest).take 65542)).toNat →
      judgeBulk (b0 :: rest) = .crcFault) := by
  have hc2 : c = byte 2 := by rw [← hc, byte_toNat_self]
  match rest with
  | [] | [_] | [_, _] | [_, _, _] => exact ⟨fun _ => rfl, fun h => absurd h (by simp)⟩
  | i0 :: i1 :: i2 :: i3 :: body =>
    have hindex : le32 (BitVec.ofNat 32 (num32 i0 i1 i2 i3)).toNat = [i0, i1, i2, i3] := by
      rw [BitVec.toNat_ofNat, Nat.mod_eq_of_lt (num32_lt i0 i1 i2 i3), le32_num32]
    refine ⟨fun hlen => ?_, fun hlen hcrc => ?_⟩
    · simp only [judgeBulk]
      rw [if_pos (by simp [Config.blockBytes] at hlen ⊢; omega)]
    · have hhead : bulkHead b0 (BitVec.ofNat 32 (num32 i0 i1 i2 i3)) (body.take 65536) =
          (c :: b0 :: i0 :: i1 :: i2 :: i3 :: body).take 65542 := by
        simp only [bulkHead, hindex, hc2, List.take_succ_cons, List.cons_append, List.nil_append]
        rfl
      simp only [judgeBulk]
      rw [if_neg (by simp [Config.blockBytes] at hlen ⊢; omega), hhead, if_neg]
      simpa using hcrc

/-- The ways a frame of two bytes or more is discarded (R186, R187). -/
theorem frame_discarded (l : Link) (c b0 : Byte) (rest : List Byte) (s : State) (hopen : LinkOpen l s) :
    let bytes := c :: b0 :: rest
    let gives := fun r => CompletesIn (.discardedFrame l bytes) l bytes.length s r s.part
    (38 < c.toNat → gives .unknown) ∧
    (c.toNat ≤ 38 → c.toNat ≠ 2 → rest = [] → gives .short) ∧
    (c.toNat ≤ 38 → c.toNat ≠ 2 → ∀ b1 body, rest = b1 :: body →
      (240 < num16 b0 b1 → gives .crcFault) ∧
      (num16 b0 b1 ≤ 240 → bytes.length < 5 + num16 b0 b1 → gives .short) ∧
      (num16 b0 b1 ≤ 240 → 5 + num16 b0 b1 ≤ bytes.length →
        (body.drop (num16 b0 b1)).take 2 ≠ le16 (crc16 (bytes.take (3 + num16 b0 b1))).toNat → gives .crcFault)) ∧
    (c.toNat = 2 → bytes.length < 65546 → gives .short) ∧
    (c.toNat = 2 → 65546 ≤ bytes.length →
      (bytes.drop 65542).take 4 ≠ le32 (crc32 (bytes.take 65542)).toNat → gives .crcFault) := by
  intro bytes gives
  have hjudge := judgeFrame_cons c b0 rest
  refine ⟨fun h => ?_, fun hcode hbulk hrest => ?_, fun hcode hbulk b1 body hrest => ?_, fun h2 hlen => ?_,
    fun h2 hlen hcrc => ?_⟩
  · rw [if_neg (by omega), if_neg (by omega)] at hjudge
    exact discardedFrame_completes hopen hjudge rfl
  · subst hrest
    rw [if_neg hbulk, if_pos hcode] at hjudge
    exact discardedFrame_completes hopen hjudge rfl
  · subst hrest
    rw [if_neg hbulk, if_pos hcode, judgeCommand_cons] at hjudge
    refine ⟨fun h => ?_, fun h hlen => ?_, fun h hlen hcrc => ?_⟩
    · rw [if_pos h] at hjudge
      exact discardedFrame_completes hopen hjudge rfl
    · rw [if_neg (by omega), if_pos (by simp [bytes] at hlen; omega)] at hjudge
      exact discardedFrame_completes hopen hjudge rfl
    · rw [if_neg (by omega), if_neg (by simp [bytes] at hlen; omega), if_neg hcrc] at hjudge
      exact discardedFrame_completes hopen hjudge rfl
  · rw [if_pos h2, (judgeBulk_discards c b0 rest h2).1 hlen] at hjudge
    exact discardedFrame_completes hopen hjudge rfl
  · rw [if_pos h2, (judgeBulk_discards c b0 rest h2).2 hlen hcrc] at hjudge
    exact discardedFrame_completes hopen hjudge rfl

end Sys2Proof.Machine
end

section
/-!
PROOFS. Payloads (R188): a taken command whose payload has not the length that 12.3 gives it is refused with RANGE and
changes nothing. With the two parts on frames before it, this settles O5.
-/

namespace Sys2Proof.Machine

/-! ## A payload of another length -/

theorem noPayload_badLength {payload : List Byte} (h : payload.length ≠ 0) (f : Part → Response × Part) (p : Part) :
    noPayload payload f p = (.refused .range [], p) := by
  unfold noPayload
  split
  · exact absurd rfl h
  · rfl

theorem onSlot_badLength {payload : List Byte} (h : payload.length ≠ 1) (f : SlotNum → Part → Response × Part) (p : Part) :
    onSlot payload f p = (.refused .range [], p) := by
  unfold onSlot
  split
  · exact absurd rfl h
  · rfl

theorem onJobByte_badLength {payload : List Byte} (h : payload.length ≠ 1) (f : JobNum → Job → Part → Response × Part) (p : Part) :
    onJobByte payload f p = (.refused .range [], p) := by
  unfold onJobByte
  split
  · exact absurd rfl h
  · rfl

theorem onBay_badLength {payload : List Byte} (h : payload.length ≠ 1) (f : BayNum → Part → Response × Part) (p : Part) :
    onBay payload f p = (.refused .range [], p) := by
  unfold onBay
  split
  · exact absurd rfl h
  · rfl

theorem withFlags_badLength {payload : List Byte} (h : payload.length ≠ 2) (f : FlagSet → Part → Response × Part) (p : Part) :
    withFlags payload f p = (.refused .range [], p) := by
  unfold withFlags
  split
  · exact absurd rfl h
  · rfl

theorem imageOpenBody_badLength {payload : List Byte} (h : payload.length ≠ 5) (p : Part) :
    imageOpenBody payload p = (.refused .range [], p) := by
  unfold imageOpenBody
  split
  · exact absurd rfl h
  · rfl

theorem moveDoneBody_badLength {payload : List Byte} (h : payload.length ≠ 3) (p : Part) :
    moveDoneBody payload p = (.refused .range [], p) := by
  unfold moveDoneBody
  split
  · exact absurd rfl h
  · rfl

theorem moveFailedBody_badLength {payload : List Byte} (h : payload.length ≠ 3) (pickOnly : Bool) (f : Order → Part → Part)
    (p : Part) :
    moveFailedBody payload pickOnly f p = (.refused .range [], p) := by
  unfold moveFailedBody
  split
  · exact absurd rfl h
  · rfl

theorem spindleReportBody_badLength {payload : List Byte} (h : payload.length ≠ 3) (p : Part) :
    spindleReportBody payload p = (.refused .range [], p) := by
  unfold spindleReportBody
  split
  · exact absurd rfl h
  · rfl

theorem binReportBody_badLength {payload : List Byte} (h : payload.length ≠ 2) (p : Part) :
    binReportBody payload p = (.refused .range [], p) := by
  unfold binReportBody
  split
  · exact absurd rfl h
  · rfl

theorem discReadBody_badLength {payload : List Byte} (h : payload.length ≠ 2) (p : Part) :
    discReadBody payload p = (.refused .range [], p) := by
  unfold discReadBody
  split
  · exact absurd rfl h
  · rfl

theorem burnSettingsBody_badLength {payload : List Byte} (h : payload.length ≠ 4) (p : Part) :
    burnSettingsBody payload p = (.refused .range [], p) := by
  unfold burnSettingsBody
  split
  · exact absurd rfl h
  · rfl

theorem sessionStatusBody_badLength {payload : List Byte} (h : payload.length ≠ 1) (p : Part) :
    sessionStatusBody payload p = (.refused .range [], p) := by
  unfold sessionStatusBody
  split
  · exact absurd rfl h
  · rfl

theorem verifyLimitsBody_badLength {payload : List Byte} (h : payload.length ≠ 6) (p : Part) :
    verifyLimitsBody payload p = (.refused .range [], p) := by
  unfold verifyLimitsBody
  split
  · exact absurd rfl h
  · rfl

theorem printSettingsBody_badLength {payload : List Byte} (h : payload.length ≠ 15) (p : Part) :
    printSettingsBody payload p = (.refused .range [], p) := by
  unfold printSettingsBody
  split
  · exact absurd rfl h
  · rfl

theorem ribbonLoadedBody_badLength {payload : List Byte} (h : payload.length ≠ 6) (broken : Bool) (p : Part) :
    ribbonLoadedBody payload broken p = (.refused .range [], p) := by
  unfold ribbonLoadedBody
  split
  · exact absurd rfl h
  · rfl

theorem parseDefn_badLength {bytes : List Byte} (h : bytes.length ≠ 13) (amend : Bool) :
    parseDefn amend bytes = none := by
  unfold parseDefn
  split
  · exact absurd rfl h
  · rfl

theorem jobDefineBody_badLength {payload : List Byte} (h : payload.length ≠ 13) (p : Part) :
    jobDefineBody payload p = (.refused .range [], p) := by
  simp only [jobDefineBody, parseDefn_badLength h, rangeError, refuse_eq]

theorem jobAmendBody_badLength {payload : List Byte} (h : payload.length ≠ 14) (p : Part) :
    jobAmendBody payload p = (.refused .range [], p) := by
  cases payload with
  | nil => rfl
  | cons b bytes =>
    have hlen : bytes.length ≠ 13 := fun h13 => h (by simp [h13])
    simp only [jobAmendBody, if_neg hlen, rangeError, refuse_eq]

theorem parseLimits_badLength {payload : List Byte} (h : payload.length ≠ 12) : parseLimits payload = none := by
  unfold parseLimits
  split
  · exact absurd rfl h
  · rfl

theorem thermalLimitsBody_badLength {payload : List Byte} (h : payload.length ≠ 12) (p : Part) :
    thermalLimitsBody payload p = (.refused .range [], p) := by
  simp only [thermalLimitsBody, parseLimits_badLength h, rangeError, refuse_eq]

theorem resultsReadBody_badLength {payload : List Byte} (h : 1 < payload.length) (l : Link) (p : Part) :
    resultsReadBody l payload p = (.refused .range [], p) := by
  match payload, h with
  | _ :: _ :: _, _ => rfl

/-! ## The commands that read switches -/

/-- A command that reads switches completes with what its body makes of the part, and leaves the pins as read. -/
theorem linkCommand_sampling {i : Instr} {l : Link} {payload : List Byte} {fill : Nat} {s : State} {pins : Pins}
    {f : Part → Response × Part} {r : Response} {p : Part} (hopen : LinkOpen l s) (hlen : payload.length ≤ 240)
    (hexec : exec i s = linkCommand l payload fill f { s with pins := pins }) (hbody : f s.part = (r, p)) :
    ∃ t, exec i s = .next t ∧ t.pending = s.pending ∧ t.pins = pins ∧ KeepsMemory s t ∧
      AnsweredWith l (5 + payload.length + fill) r s t ∧ t.part = p := by
  refine ⟨answered l (5 + payload.length + fill) { s with pins := pins } r p, ?_, rfl, rfl, fun _ => rfl,
    answered_with .., rfl⟩
  have hfits : ¬ Config.maxPayload < payload.length := by simpa [Config.maxPayload] using hlen
  rw [hexec, linkCommand, frameEnds_open (s := { s with pins := pins }) hopen]
  simp [hfits, hbody]

/-! ## The refusal of each command -/

/-- Settles O5: the checks of a frame are read off its bytes, and each body refuses a payload of another length. -/
theorem framesAreJudged : Obligations.FramesAreJudged := by
  unfold Obligations.FramesAreJudged
  refine ⟨judgeFrame_taken, frame_discarded, fun l payload fill s hopen hlen => ?_⟩
  have refuses : ∀ {i : Link → List Byte → Nat → Instr} (f : Part → Response × Part),
      exec (i l payload fill) s = linkCommand l payload fill f s → f s.part = (.refused .range [], s.part) →
        Completes i l payload fill s (.refused .range []) s.part :=
    fun f hexec hbody => linkCommand_completes hopen hlen hexec hbody
  refine ⟨⟨?_, ?_, ?_, ?_, ?_⟩, ⟨?_, ?_, ?_, ?_, ?_, ?_, ?_, ?_⟩, ⟨?_, ?_, ?_, ?_, ?_, ?_, ?_, ?_, ?_⟩,
    ⟨?_, ?_, ?_, ?_, ?_, ?_, ?_, ?_, ?_, ?_⟩, ⟨?_, ?_, ?_, ?_⟩, ?_, fun broken tray => ⟨?_, ?_⟩⟩
  · exact fun h => refuses _ rfl (imageOpenBody_badLength h _)
  · exact fun h => refuses _ rfl (onSlot_badLength h _ _)
  · exact fun h => refuses _ rfl (onSlot_badLength h _ _)
  · exact fun h => refuses _ rfl (onSlot_badLength h _ _)
  · exact fun h => refuses _ rfl (onSlot_badLength h _ _)
  · exact fun h => refuses _ rfl (jobDefineBody_badLength h _)
  · exact fun h => refuses _ rfl (jobAmendBody_badLength h _)
  · exact fun h => refuses _ rfl (onJobByte_badLength h _ _)
  · exact fun h => refuses _ rfl (onJobByte_badLength h _ _)
  · exact fun h => refuses _ rfl (onJobByte_badLength h _ _)
  · exact fun h => refuses _ rfl (onJobByte_badLength h _ _)
  · exact fun h => refuses _ rfl (onJobByte_badLength h _ _)
  · exact fun h => refuses _ rfl (onJobByte_badLength h _ _)
  · exact fun h => refuses _ rfl (noPayload_badLength h _ _)
  · exact fun h => refuses _ rfl (moveDoneBody_badLength h _)
  · exact fun h => refuses _ rfl (moveFailedBody_badLength h _ _ _)
  · exact fun h => refuses _ rfl (moveFailedBody_badLength h _ _ _)
  · exact fun h => refuses _ rfl (moveFailedBody_badLength h _ _ _)
  · exact fun h => refuses _ rfl (noPayload_badLength h _ _)
  · exact fun h => refuses _ rfl (spindleReportBody_badLength h _)
  · exact fun h => refuses _ rfl (binReportBody_badLength h _)
  · exact fun h => refuses _ rfl (discReadBody_badLength h _)
  · exact fun h => refuses _ rfl (onBay_badLength h _ _)
  · exact fun h => refuses _ rfl (onBay_badLength h _ _)
  · exact fun h => refuses _ rfl (onBay_badLength h _ _)
  · exact fun h => refuses _ rfl (burnSettingsBody_badLength h _)
  · exact fun h => refuses _ rfl (sessionStatusBody_badLength h _)
  · exact fun h => refuses _ rfl (verifyLimitsBody_badLength h _)
  · exact fun h => refuses _ rfl (noPayload_badLength h _ _)
  · exact fun h => refuses _ rfl (printSettingsBody_badLength h _)
  · exact fun h => refuses _ rfl (thermalLimitsBody_badLength h _)
  · exact fun h => refuses _ rfl (noPayload_badLength h _ _)
  · exact fun h => refuses _ rfl (noPayload_badLength h _ _)
  · exact fun h => refuses _ rfl (noPayload_badLength h _ _)
  · exact fun h => refuses _ rfl (withFlags_badLength h _ _)
  · exact fun h => refuses _ rfl (withFlags_badLength h _ _)
  · exact fun h => refuses _ rfl (resultsReadBody_badLength h _ _)
  · exact fun h => linkCommand_sampling hopen hlen rfl (ribbonLoadedBody_badLength h _ _)
  · exact fun h => linkCommand_sampling hopen hlen rfl (noPayload_badLength (mt List.eq_nil_of_length_eq_zero h) _ _)

end Sys2Proof.Machine
end

section
/-!
PROOFS. The commands of the link units (10.6, 10.7, 11.3 to 11.6): NULL, LINK RESET, EVENTS CLEAR and MASK, and the
results ring.
-/

namespace Sys2Proof.Machine

/-! ## NULL (R193) -/

/-- What the part clocks out during a frame, written out (10.3). -/
theorem clockOut_eq (p : Part) (l : Link) (r : Response) (n : Nat) :
    clockOut p l r n =
      let body := byte r.code :: r.reasonBytes ++ le16 r.payload.length ++ r.payload
      (summaryByte p l :: body ++ le16 (crc16 body).toNat ++ List.replicate n 0).take n := rfl

/-- Settles O7: a NULL is a command frame whose body gives IDLE and leaves the part as it was. -/
theorem nullCollectsTheResponse : Obligations.NullCollectsTheResponse := by
  unfold Obligations.NullCollectsTheResponse
  intro l payload fill s hopen hlen
  have hnull : Completes .nullCommand l payload fill s .idle s.part :=
    linkCommand_completes (f := nullBody) hopen hlen rfl rfl
  refine ⟨hnull, ?_⟩
  obtain ⟨t, hexec, -, ⟨hport, -⟩, -⟩ := hnull
  refine ⟨t, hexec, ?_⟩
  dsimp only
  rw [hport]
  exact clockOut_eq ..

/-! ## LINK RESET (R194) -/

/-- Settles O8: the rule of LINK RESET writes the events of its own link and nothing else. -/
theorem linkResetActsOnOneLink : Obligations.LinkResetActsOnOneLink := by
  unfold Obligations.LinkResetActsOnOneLink
  intro l fill s hopen
  refine ⟨noPayloadCommand_completes (f := resetLink l) hopen rfl rfl, fun payload hne hlen => ?_⟩
  have hbad : payload.length ≠ 0 := mt List.eq_nil_of_length_eq_zero hne
  exact linkCommand_completes (f := noPayload payload (resetLink l)) hopen hlen rfl (noPayload_badLength hbad _ _)

/-! ## EVENTS CLEAR and EVENTS MASK (R201, R202) -/

/-- A command that carries a flag set hands the set of its two bytes to its rule. -/
theorem withFlags_le16 (x : FlagSet) (f : FlagSet → Part → Response × Part) (p : Part) :
    withFlags (le16 x.toNat) f p = f x p := by
  simp only [withFlags, le16, flagsOf_le16]

/-- A word with bit 14 or 15 set is no flag set (R208). -/
theorem flagsOf_none {b0 b1 : Byte} (h : b1.getLsbD 6 = true ∨ b1.getLsbD 7 = true) : flagsOf b0 b1 = none := by
  have hge : 64 ≤ b1.toNat := by
    by_contra hlt
    have hsmall : b1.toNat < 2 ^ 6 := by omega
    rcases h with h | h
    · rw [BitVec.getLsbD, Nat.testBit_lt_two_pow hsmall] at h
      cases h
    · rw [BitVec.getLsbD, Nat.testBit_lt_two_pow (Nat.lt_trans hsmall (by decide))] at h
      cases h
  simp only [flagsOf, num16]
  exact if_neg (by omega)

theorem withFlags_none {b0 b1 : Byte} (h : b1.getLsbD 6 = true ∨ b1.getLsbD 7 = true)
    (f : FlagSet → Part → Response × Part) (p : Part) : withFlags [b0, b1] f p = (.refused .range [], p) := by
  simp only [withFlags, flagsOf_none h, rangeError, refuse_eq]

/-- Settles O10: both commands hand their rule the set that the two bytes hold, which no word above 14 bits does. -/
theorem eventsClearAndMask : Obligations.EventsClearAndMask := by
  unfold Obligations.EventsClearAndMask
  intro l fill s hopen
  refine ⟨fun x => ⟨?_, ?_⟩, fun b0 b1 h => ⟨?_, ?_⟩⟩
  · exact linkCommand_completes hopen (by simp) rfl (withFlags_le16 x (clearEvents l) s.part)
  · exact linkCommand_completes hopen (by simp) rfl (withFlags_le16 x (maskEvents l) s.part)
  · exact linkCommand_completes hopen (by simp) rfl (withFlags_none h (clearEvents l) s.part)
  · exact linkCommand_completes hopen (by simp) rfl (withFlags_none h (maskEvents l) s.part)

/-! ## The results ring (R203 to R205) -/

/-- R203: an append drops the oldest entry of a ring of 64. -/
theorem appendResult_ring (x : ResultEntry) {p : Part} (h : p.ring.length ≤ 64) :
    (appendResult x p).ring = (if p.ring.length = 64 then p.ring.drop 1 else p.ring) ++ [x] := by
  by_cases hfull : p.ring.length = 64
  · simp [appendResult, hfull, Config.ringSize]
  · simp [appendResult, hfull, Config.ringSize, show ¬ 64 ≤ p.ring.length by omega]

/-- R205: an append is unread in every link, and a link that loses an entry has RESULTS_OVERRUN set. -/
theorem appendResult_link (x : ResultEntry) {p : Part} (h : p.ring.length ≤ 64) (l : Link) :
    (appendResult x p).links[l] =
      if p.ring.length = 64 ∧ 64 ≤ p.links[l].unread then
        ⟨p.links[l].flags ||| BitVec.twoPow 14 13, p.links[l].mask, 64⟩
      else { p.links[l] with unread := p.links[l].unread + 1 } := by
  have hfull : Config.ringSize ≤ p.ring.length ↔ p.ring.length = 64 := ⟨fun hge => Nat.le_antisymm h hge, Eq.ge⟩
  simp only [appendResult, Fin.getElem_fin, Vector.getElem_map, LinkEvents.afterAppend, LinkEvents.set, Flag.bit,
    Flag.index, Bool.and_eq_true, decide_eq_true_eq, hfull, Config.ringSize]

/-- R204: a count of 1 to 8 is the count asked for. -/
theorem resultsCount_byte {n : Nat} (h1 : 1 ≤ n) (h8 : n ≤ 8) : resultsCount [byte n] = some n := by
  have hb : (byte n).toNat = n := byte_toNat (by omega)
  have hne : byte n ≠ 0xFF#8 := fun h => by
    have : (byte n).toNat = 255 := congrArg BitVec.toNat h
    omega
  simp only [resultsCount, optByte, if_neg hne, hb, if_pos (And.intro h1 h8)]

/-- R204: a count of 0 or above 8 is none. -/
theorem resultsCount_none {b : Byte} (hff : b ≠ 0xFF#8) (h : b = 0#8 ∨ 8 < b.toNat) : resultsCount [b] = none := by
  have hrange : ¬ (1 ≤ b.toNat ∧ b.toNat ≤ 8) := by
    rcases h with rfl | h
    · decide
    · omega
  simp only [resultsCount, optByte, if_neg hff, if_neg hrange]

/-- R204: a RESULTS READ with a count takes that many of its link's unread entries. -/
theorem resultsReadBody_count {payload : List Byte} {n : Nat} (h : resultsCount payload = some n) (l : Link)
    (p : Part) : resultsReadBody l payload p = readResults l n p := by
  simp only [resultsReadBody, h]

/-- Settles O11: an append writes the ring and the links alone, and RESULTS READ moves one link's count. -/
theorem resultsRingServesEachLink : Obligations.ResultsRingServesEachLink := by
  unfold Obligations.ResultsRingServesEachLink
  refine ⟨fun p x h => ⟨appendResult_ring x h, appendResult_link x h, rfl⟩, fun l fill s hopen => ?_⟩
  have reads : ∀ {payload : List Byte} {n : Nat}, payload.length ≤ 1 → resultsCount payload = some n →
      Completes .resultsRead l payload fill s (readResults l n s.part).1 (readResults l n s.part).2 :=
    fun hlen hcount => linkCommand_completes hopen (by omega) rfl (resultsReadBody_count hcount l s.part)
  refine ⟨reads (by simp) rfl, reads (by simp) rfl, fun n h1 h8 => reads (by simp) (resultsCount_byte h1 h8),
    fun b hff h => ?_⟩
  refine linkCommand_completes (f := resultsReadBody l [b]) hopen (by simp) rfl ?_
  simp only [resultsReadBody, resultsCount_none hff h, rangeError, refuse_eq]

end Sys2Proof.Machine
end

section
/-!
PROOFS. The image store (chapter 1): IMAGE OPEN and its first fit (R2, R5), IMAGE WRITE (R6 to R8), IMAGE FREEZE, RETIRE,
THAW and STATUS (R10, R11, R14, R17), and a stored block read back (R3, R7, R18).
-/

namespace Sys2Proof.Machine

/-! ## First fit (R2) -/

/-- A run is free exactly when it is apart from every extent. -/
theorem runFree_iff (slots : Vector (Option Slot) 8) (c n : Nat) :
    runFree slots c n = true ↔
      ∀ (m : SlotNum) (x : Slot), slots[m] = some x → x.first + x.chunkCount ≤ c ∨ c + n ≤ x.first := by
  refine ⟨fun h m x hx => runFree_apart h m x hx, fun h => ?_⟩
  rw [runFree, List.all_eq_true]
  intro o ho
  obtain ⟨i, hi, rfl⟩ := Vector.mem_iff_getElem.1 (Vector.mem_toList_iff.1 ho)
  cases hx : slots[i] with
  | none => rfl
  | some x => simpa using h ⟨i, hi⟩ x hx

/-- The search gives the first chunk at which a free run starts. -/
theorem firstFitFrom_some {slots : Vector (Option Slot) 8} {n c : Nat} (fits : c + n ≤ Config.chunks)
    (free : runFree slots c n = true) (fuel start : Nat) (hstart : start ≤ c) (hfuel : c < start + fuel)
    (before : ∀ a, start ≤ a → a < c → runFree slots a n = false) : firstFitFrom slots n fuel start = some c := by
  induction fuel generalizing start with
  | zero => omega
  | succ fuel ih =>
    unfold firstFitFrom
    rw [if_neg (by omega)]
    rcases Nat.lt_or_eq_of_le hstart with hlt | rfl
    · rw [if_neg (by simp [before start (Nat.le_refl _) hlt])]
      exact ih (start + 1) hlt (by omega) fun a ha => before a (by omega)
    · rw [if_pos free]

/-- The search gives nothing where no run is free. -/
theorem firstFitFrom_none {slots : Vector (Option Slot) 8} {n : Nat}
    (taken : ∀ a, a + n ≤ Config.chunks → runFree slots a n = false) (fuel start : Nat) :
    firstFitFrom slots n fuel start = none := by
  induction fuel generalizing start with
  | zero => rfl
  | succ fuel ih =>
    unfold firstFitFrom
    split
    · rfl
    · rename_i hfits
      rw [if_neg (by simp [taken start (by omega)]), ih]

/-! ## IMAGE OPEN (R5) -/

/-- The chunk count of an image, written out (R3). -/
theorem chunkCountOf_eq (k : ImageKind) (length : Nat) :
    chunkCountOf k length = if k = .disc then ((length + 31) / 32 + 31) / 32 else 1 := by
  cases k <;> rfl

@[simp] theorem kindOf_code (k : ImageKind) : kindOf (byte k.code).toNat = some k := by
  cases k <;> rfl

theorem kindOf_none {n : Nat} (h : 1 < n) : kindOf n = none := by
  match n, h with
  | _ + 2, _ => rfl

/-- Opening a slot where one is EMPTY and a run fits (R2, R5). -/
theorem openSlot_fits {k : ImageKind} {length c : Nat} {n : SlotNum} {p : Part}
    (hslot : lowest p.slots Option.isNone = some n) (hrun : firstFit p.slots (chunkCountOf k length) = some c) :
    openSlot k length p =
      (.done (byte n.val :: le16 c ++ le16 (chunkCountOf k length)),
        raise .image (setSlot n (some (newSlot k length c)) p)) := by
  simp only [openSlot, hslot, hrun]

theorem openSlot_tableFull {k : ImageKind} {length : Nat} {p : Part} (hslot : lowest p.slots Option.isNone = none) :
    openSlot k length p = (.refused .tableFull [], p) := by
  simp only [openSlot, hslot, refuse_eq]

theorem openSlot_noSpace {k : ImageKind} {length : Nat} {n : SlotNum} {p : Part}
    (hslot : lowest p.slots Option.isNone = some n) (hrun : firstFit p.slots (chunkCountOf k length) = none) :
    openSlot k length p = (.refused .noSpace [], p) := by
  simp only [openSlot, hslot, hrun, refuse_eq]

/-- IMAGE OPEN of a kind and length in range opens a slot. -/
theorem imageOpenBody_ok {b l0 l1 l2 l3 : Byte} {k : ImageKind} (hk : kindOf b.toNat = some k)
    (hlen : lengthOk k (num32 l0 l1 l2 l3) = true) (p : Part) :
    imageOpenBody [b, l0, l1, l2, l3] p = openSlot k (num32 l0 l1 l2 l3) p := by
  simp only [imageOpenBody, hk, hlen, if_true]

/-- IMAGE OPEN of an unknown kind, or of a length out of its range, is refused with RANGE. -/
theorem imageOpenBody_range {b l0 l1 l2 l3 : Byte}
    (h : ∀ k, kindOf b.toNat = some k → lengthOk k (num32 l0 l1 l2 l3) = false) (p : Part) :
    imageOpenBody [b, l0, l1, l2, l3] p = (.refused .range [], p) := by
  cases hk : kindOf b.toNat with
  | none => simp only [imageOpenBody, hk, rangeError, refuse_eq]
  | some k => simp only [imageOpenBody, hk, h k hk, Bool.false_eq_true, if_false, rangeError, refuse_eq]

/-- A table with an EMPTY slot has a lowest one. -/
theorem lowest_isNone_of {slots : Vector (Option Slot) 8} (h : ∃ n : SlotNum, slots[n] = none) :
    ∃ n, lowest slots Option.isNone = some n := by
  cases hl : lowest slots Option.isNone with
  | some n => exact ⟨n, rfl⟩
  | none =>
    obtain ⟨n, hn⟩ := h
    have := (List.find?_eq_none.1 hl) n (List.mem_finRange n)
    simp [hn] at this

theorem lengthOk_iff (k : ImageKind) (length : Nat) :
    lengthOk k length = true ↔ 1 ≤ length ∧ length ≤ if k = .disc then 16777216 else 1440 := by
  cases k <;> simp [lengthOk]

/-- Settles O13: the lowest EMPTY slot and the first fit are what the two searches of IMAGE OPEN give. -/
theorem imageOpenTakesTheFirstFit : Obligations.ImageOpenTakesTheFirstFit := by
  unfold Obligations.ImageOpenTakesTheFirstFit
  refine ⟨fun l k length fill n c s hopen hdisc hlabel => ?opens, fun l payload fill s hopen hlen => ⟨?_, ?_⟩⟩
  case opens =>
    intro count free hempty hlower hfits hfree hbefore
    have hcount : chunkCountOf k length = count := chunkCountOf_eq k length
    have hbound : length < 4294967296 := by
      cases k
      · have := hdisc rfl; omega
      · have := hlabel rfl; omega
    have hok : lengthOk k length = true := by
      rw [lengthOk_iff]
      cases k
      · exact hdisc rfl
      · exact hlabel rfl
    have hslot : lowest s.part.slots Option.isNone = some n :=
      lowest_some (by simp [hempty]) fun m hm => Option.isNone_eq_false_iff.2 (Option.isSome_iff_ne_none.2 (hlower m hm))
    have hrun : firstFit s.part.slots (chunkCountOf k length) = some c := by
      rw [hcount]
      refine firstFitFrom_some hfits ((runFree_iff ..).2 hfree) _ _ (Nat.zero_le c) ?_ fun a _ ha => ?_
      · have : Config.chunks = 16384 := rfl
        omega
      · exact Bool.eq_false_iff.2 fun h => hbefore a ha ((runFree_iff ..).1 h)
    refine linkCommand_completes (f := imageOpenBody (byte k.code :: le32 length)) hopen (by simp) rfl ?_
    have hbody : imageOpenBody (byte k.code :: le32 length) s.part = openSlot k length s.part := by
      have h := imageOpenBody_ok (l0 := byte length) (l1 := byte (length / 256)) (l2 := byte (length / 65536))
        (l3 := byte (length / 16777216)) (kindOf_code k) (by rw [num32_le32 hbound]; exact hok) s.part
      rwa [num32_le32 hbound] at h
    rw [hbody, openSlot_fits hslot hrun, hcount]
    rfl
  · exact fun hne => linkCommand_completes hopen hlen rfl (imageOpenBody_badLength hne _)
  · rintro k l0 l1 l2 l3 rfl length
    have range : (∀ k', kindOf k.toNat = some k' → lengthOk k' length = false) →
        Completes .imageOpen l [k, l0, l1, l2, l3] fill s (.refused .range []) s.part :=
      fun h => linkCommand_completes hopen hlen rfl (imageOpenBody_range h _)
    refine ⟨fun h => range ?_, fun h => range ?_, fun hk h => range ?_, fun hk h => range ?_, fun h => ?_⟩
    · simp [kindOf_none h]
    · intro k' _
      rw [← Bool.not_eq_true, lengthOk_iff]
      omega
    · rintro k' hk'
      subst hk
      cases hk'
      rw [← Bool.not_eq_true, lengthOk_iff, if_pos rfl]
      omega
    · rintro k' hk'
      subst hk
      cases hk'
      rw [← Bool.not_eq_true, lengthOk_iff, if_neg (by decide)]
      omega
    · intro count
      obtain ⟨k', hk', hok, hcount⟩ : ∃ k', kindOf k.toNat = some k' ∧ lengthOk k' length = true ∧
          chunkCountOf k' length = count := by
        rcases h with ⟨rfl, h1, h2⟩ | ⟨rfl, h1, h2⟩
        · exact ⟨.disc, rfl, by simp [lengthOk, h1, h2], rfl⟩
        · exact ⟨.label, rfl, by simp [lengthOk, h1, h2], rfl⟩
      refine ⟨fun hfull => ?_, fun hempty htaken => ?_⟩
      · have hslot : lowest s.part.slots Option.isNone = none := 
          lowest_none fun n => Option.isNone_eq_false_iff.2 (Option.isSome_iff_ne_none.2 (hfull n))
        exact linkCommand_completes hopen hlen rfl ((imageOpenBody_ok hk' hok _).trans (openSlot_tableFull hslot))
      · obtain ⟨n, hslot⟩ := lowest_isNone_of hempty
        have hrun : firstFit s.part.slots (chunkCountOf k' length) = none := by
          rw [hcount]
          refine firstFitFrom_none (fun a ha => Bool.eq_false_iff.2 fun hfree => ?_) _ _
          obtain ⟨m, x, hx, h1, h2⟩ := htaken a ha
          rcases (runFree_iff ..).1 hfree m x hx with h | h <;> omega
        exact linkCommand_completes hopen hlen rfl ((imageOpenBody_ok hk' hok _).trans (openSlot_noSpace hslot hrun))

end Sys2Proof.Machine
end

section
/-!
PROOFS. IMAGE WRITE (R6 to R8), IMAGE FREEZE, RETIRE, THAW and STATUS (R10, R11, R14, R17), and a stored block read back
(R3, R7, R18).
-/

namespace Sys2Proof.Machine

/-! ## IMAGE WRITE (R6 to R8) -/

/-- A whole bulk frame is judged by its slot. -/
theorem exec_imageWrite {l : Link} {s : State} (hopen : LinkOpen l s) (slot : Byte) (index : BitVec 32)
    {data : List Byte} (hlen : data.length = 65536) (fill : Nat) :
    exec (.imageWrite l slot index data fill) s = takeBulk l (65546 + fill) slot index data s := by
  have htake : data.take Config.blockBytes = data := List.take_of_length_le (le_of_eq hlen)
  have hexec : exec (.imageWrite l slot index data fill) s = execImageWrite l slot index data fill s := rfl
  rw [hexec, execImageWrite, frameEnds_open hopen, if_neg (by simp [hlen, Config.blockBytes]), htake, hlen]

/-- What answers a frame on its own completes it. -/
theorem completesIn_answered {i : Instr} {l : Link} {n : Nat} {s : State} {r : Response} {p : Part}
    (h : exec i s = .next (answered l n s r p)) : CompletesIn i l n s r p :=
  ⟨_, h, ⟨rfl, rfl, fun _ => rfl⟩, answered_with .., rfl⟩

/-- The image bytes of a block, as the spec counts them (R3). -/
theorem Slot.bytesIn_eq (x : Slot) (b : Nat) :
    x.bytesIn b =
      if b + 1 = x.blockCount then
        (match x.kind with
          | .disc => 2048 * x.length
          | .label => 180 * x.length) - 65536 * b
      else 65536 := by
  obtain ⟨kind, _⟩ := x
  cases kind <;> rfl

/-- The record a stored block leaves, written out (R7, R8). -/
theorem Slot.afterBlock_eq {x : Slot} {c : Crc32} (hc : x.crc = some c) (data : List Byte) :
    x.afterBlock data =
      let last := x.fill + 1 = x.blockCount
      let crc := crc32Feed c (data.take (x.bytesIn x.fill))
      { x with
        fill := x.fill + 1
        digests := if x.fill % 32 = 31 ∨ last then x.digests ++ [crc32Finish crc] else x.digests
        crc := if last then none else if x.fill % 32 = 31 then some 0xFFFFFFFF#32 else some crc } := by
  simp only [Slot.afterBlock, Slot.within, hc, Option.getD_some, Bool.or_eq_true, decide_eq_true_eq]
  by_cases hchunk : x.fill % 32 = 31
  · simp only [hchunk, true_or, if_true]
    rfl
  · by_cases hlast : x.fill + 1 = x.blockCount <;> simp [hchunk, hlast]

/-- A block of an image lies within the 65,536 bytes of a block (R3). -/
theorem Slot.bytesIn_le {x : Slot} {b : Nat} (hb : b < x.blockCount) : x.bytesIn b ≤ 65536 := by
  rw [Slot.bytesIn_eq]
  split
  · rename_i hlast
    obtain ⟨kind, _, length, _⟩ := x
    cases kind <;>
      simp only [Slot.blockCount, blockCountOf, divUp, Config.blockBytes] at hlast ⊢ <;> omega
  · exact Nat.le_refl _

/-- A taken block is stored at its place, and advances its slot's record (R6, R7). -/
theorem takeBulk_stores {l : Link} {n : Nat} {slot : Byte} {index : BitVec 32} {data : List Byte} {s : State}
    {k : SlotNum} {x : Slot} (hslot : numbered 8 slot = some k) (hx : s.part.slots[k] = some x)
    (hstate : x.state = .filling) (hfill : x.fill < x.blockCount) (hindex : index.toNat = x.fill)
    (hmem : x.first + x.chunkCount ≤ 16384) :
    takeBulk l n slot index data s =
      .next { answered l n s (.done (slot :: le32 (x.fill + 1))) (setSlot k (some (x.afterBlock data)) s.part) with
        mem := writeBytes s.mem (x.blockAddress x.fill) (x.within data) } := by
  have hin : x.inMemory = true := decide_eq_true hmem
  have hat : (decide (x.fill = x.blockCount) || decide (index.toNat ≠ x.fill)) = false := by
    simp [hindex, Nat.ne_of_lt hfill]
  simp only [takeBulk, hslot, hx, hstate, hat, hin, Bool.false_eq_true, if_false, Bool.not_true]

/-- Settles O14: a taken block is written at its own place, and what refuses a block answers without a write. -/
theorem imageWriteStoresTheBlock : Obligations.ImageWriteStoresTheBlock := by
  unfold Obligations.ImageWriteStoresTheBlock
  refine ⟨fun l k x c index data fill s hopen hx hstate hc hfill hindex hmem hlen => ?stores,
    fun l slot index data fill s hopen hlen => ?refuses⟩
  case stores =>
    intro last imageBytes n a crc y
    have hn : x.bytesIn x.fill = n := Slot.bytesIn_eq x x.fill
    have hle : n ≤ 65536 := hn ▸ Slot.bytesIn_le hfill
    have hy : x.afterBlock data = y := by rw [Slot.afterBlock_eq hc data, hn]
    have hwithin : x.within data = data.take n := by rw [Slot.within, hn]
    have hstored : (data.take n).length = n := List.length_take_of_le (by omega)
    have hexec := (exec_imageWrite hopen (byte k.val) index hlen fill).trans
      (takeBulk_stores (numbered_byte (by decide) k) hx hstate hfill hindex hmem)
    rw [hy, hwithin] at hexec
    refine ⟨_, hexec, rfl, rfl, answered_with l (65546 + fill) s _ (setSlot k (some y) s.part), rfl, fun i hi => ?_, fun b hb => ?_⟩
    · have hread := readByte_writeBytes_inside s.mem a (data.take n) i (by omega)
      rw [List.getElem_take] at hread
      rw [List.getD_eq_getElem _ _ (by omega)]
      exact hread
    · exact readByte_writeBytes_outside s.mem a (data.take n) b (by rwa [hstored])
  case refuses =>
    have hexec := exec_imageWrite hopen slot index hlen fill
    refine ⟨fun hgreat => completesIn_answered (hexec.trans ?_), fun k hk => ?_⟩
    · simp only [takeBulk, numbered_none hgreat, Response.refusal]
    have hslot : numbered 8 slot = some k := by
      rw [← byte_toNat_self slot, hk, numbered_byte (by decide)]
    refine ⟨fun hnone => ?_, fun x hx => ⟨?_, ?_⟩⟩
    · refine completesIn_answered (hexec.trans ?_)
      simp only [takeBulk, hslot, hnone, Response.refusal]
    · intro hstate
      refine completesIn_answered (hexec.trans ?_)
      rcases hstate with hstate | hstate <;> simp only [takeBulk, hslot, hx, hstate, Response.refusal]
    · intro hstate hseq
      refine completesIn_answered (hexec.trans ?_)
      have hwrong : (decide (x.fill = x.blockCount) || decide (index.toNat ≠ x.fill)) = true := by simpa using hseq
      simp only [takeBulk, hslot, hx, hstate, hwrong, if_true, sequenceRefusal]

/-! ## IMAGE FREEZE, RETIRE, THAW and STATUS -/

/-- A command that names a slot by its number does to the part what its rule does to that slot. -/
theorem onSlot_byte (k : SlotNum) (f : SlotNum → Part → Response × Part) (p : Part) :
    onSlot [byte k.val] f p = f k p := by
  simp only [onSlot, numbered_byte (by decide) k]

theorem onSlot_numberTooGreat {b : Byte} (h : 7 < b.toNat) (f : SlotNum → Part → Response × Part) (p : Part) :
    onSlot [b] f p = (.refused .range [], p) := by
  simp only [onSlot, numbered_none h, rangeError, refuse_eq]

/-- A command whose payload is a slot number completes with what its rule makes of the part. -/
theorem slotCommand_completes {i : Link → List Byte → Nat → Instr} {l : Link} {k : SlotNum} {fill : Nat} {s : State}
    {f : SlotNum → Part → Response × Part} {r : Response} {p : Part} (hopen : LinkOpen l s)
    (hexec : exec (i l [byte k.val] fill) s = linkCommand l [byte k.val] fill (onSlot [byte k.val] f) s)
    (hrule : f k s.part = (r, p)) : Completes i l [byte k.val] fill s r p :=
  linkCommand_completes hopen (by simp) hexec ((onSlot_byte k f s.part).trans hrule)

/-- IMAGE FREEZE of a slot that is not FILLING (R10). -/
theorem freezeSlot_state {k : SlotNum} {p : Part} (h : ∀ x, p.slots[k] = some x → x.state ≠ .filling) :
    freezeSlot k p = (.refused .state [], p) := by
  unfold freezeSlot
  split
  · rename_i x hx
    have hne := h x hx
    split
    · contradiction
    · rfl
  · rfl

/-- IMAGE FREEZE of a FILLING slot (R10). -/
theorem freezeSlot_filling {k : SlotNum} {p : Part} {x : Slot} (hx : p.slots[k] = some x)
    (hstate : x.state = .filling) :
    freezeSlot k p =
      if x.fill = x.blockCount then
        (.done (le32 (imageDigest x.digests).toNat), raise .image (setSlot k (some x.freeze) p))
      else (sequenceRefusal x, p) := by
  simp only [freezeSlot, hx, hstate]

/-- IMAGE THAW under the strap (R14). -/
theorem thawSlot_strapped {k : SlotNum} {p : Part} (h : p.strap = true) :
    thawSlot k p = match p.slots[k] with
      | some x =>
        if x.state ≠ .frozen then (.refused .state [], p)
        else if x.refs ≠ 0 then (.refused .inUse [], p)
        else (.done [], raise .image (setSlot k (some x.thaw) p))
      | none => (.refused .state [], p) := by
  simp only [thawSlot, h, Bool.not_true, Bool.false_eq_true, if_false]
  rfl

/-- Settles O15: each command is decided by the record of the slot that its byte names. -/
theorem imageFreezeRetireThaw : Obligations.ImageFreezeRetireThaw := by
  unfold Obligations.ImageFreezeRetireThaw
  refine ⟨fun l k fill s hopen => ?freezeRetire, fun l fill s hopen => ⟨fun b hb => ?range, fun k => ?thawStatus⟩⟩
  case freezeRetire =>
    intro freezes retires
    have freeze : ∀ {r p}, freezeSlot k s.part = (r, p) → freezes r p :=
      fun h => slotCommand_completes hopen rfl h
    have retire : ∀ {r p}, retireSlot k s.part = (r, p) → retires r p :=
      fun h => slotCommand_completes hopen rfl h
    refine ⟨fun hnone => ⟨freeze (freezeSlot_state (by simp [hnone])), retire (by simp only [retireSlot, hnone, refuse_eq])⟩,
      fun x hx => ⟨fun hstate => ⟨fun hfull => freeze ?_, fun hpart => freeze ?_, retire ?_⟩,
        fun hstate => ⟨freeze ?_, fun hrefs => retire ?_, fun hrefs => retire ?_⟩,
        fun hstate => ⟨freeze ?_, retire ?_⟩⟩⟩
    · rw [freezeSlot_filling hx hstate, if_pos hfull]
      rfl
    · rw [freezeSlot_filling hx hstate, if_neg (Nat.ne_of_lt hpart)]
      rfl
    · simp only [retireSlot, hx, hstate]
      rfl
    · exact freezeSlot_state (by simp [hx, hstate])
    · simp only [retireSlot, hx, hstate, hrefs, if_true]
      rfl
    · simp only [retireSlot, hx, hstate, if_neg (Nat.ne_of_gt hrefs)]
      rfl
    · exact freezeSlot_state (by simp [hx, hstate])
    · simp only [retireSlot, hx, hstate, refuse_eq]
  case range =>
    exact ⟨linkCommand_completes hopen (by simp) rfl (onSlot_numberTooGreat hb freezeSlot _),
      linkCommand_completes hopen (by simp) rfl (onSlot_numberTooGreat hb retireSlot _),
      linkCommand_completes hopen (by simp) rfl (onSlot_numberTooGreat hb thawSlot _),
      linkCommand_completes hopen (by simp) rfl (onSlot_numberTooGreat hb slotStatus _)⟩
  case thawStatus =>
    intro thaws
    have thaw : ∀ {r p}, thawSlot k s.part = (r, p) → thaws r p := fun h => slotCommand_completes hopen rfl h
    refine ⟨slotCommand_completes (f := slotStatus) hopen rfl rfl, fun hstrap => thaw ?_, fun hstrap => ⟨fun hnone => thaw ?_,
      fun x hx => ⟨fun hstate => thaw ?_, fun hstate hrefs => thaw ?_, fun hstate hrefs => thaw ?_⟩⟩⟩
    · simp only [thawSlot, hstrap, Bool.not_false, if_true, Response.refusal]
    all_goals rw [thawSlot_strapped hstrap]
    · simp only [hnone]
    · simp only [hx, if_pos hstate]
    · simp only [hx, hstate, ne_eq, not_true_eq_false, if_false, Nat.ne_of_gt hrefs, not_false_eq_true, if_true]
    · simp only [hx]
      rw [if_neg (not_not_intro hstate), if_neg (not_not_intro hrefs)]
      rfl

/-! ## Blocks and chunks of an image, and a stored block (R3, R7, R18) -/

/-- The `n` bytes stored at an address are read back from it. -/
theorem readBytes_writeBytes {m : List Host.Cell} (hm : Memory.wf m) (a : Nat) (bytes : List Byte) :
    readBytes (writeBytes m a bytes) a bytes.length = bytes := by
  rw [readBytes_eq _ _ _ (writeBytes_wf m a bytes hm)]
  refine List.ext_getElem (by simp) fun i h1 h2 => ?_
  rw [List.getElem_map, List.getElem_range]
  exact readByte_writeBytes_inside m a bytes i h2

/-- Settles O16: the counts of R3 are read off their definitions, and what was written is read back. -/
theorem storedBlockReadsBack : Obligations.StoredBlockReadsBack := by
  unfold Obligations.StoredBlockReadsBack
  refine ⟨fun x => ?counts, fun m x b data hm hlen hb => ?readsBack⟩
  case counts =>
    intro n
    refine ⟨fun hk => ?_, fun hk => ?_, fun b hb => ?_⟩
    · have hn : n = (x.length + 31) / 32 := by simp only [n, Slot.blockCount, hk, blockCountOf, divUp]; rfl
      refine ⟨hn, ?_, fun hpos => ?_⟩
      · have : x.chunkCount = divUp n 32 := by simp only [n, Slot.chunkCount, Slot.blockCount, hk, chunkCountOf]
        rw [this]
        rfl
      · rw [Slot.bytesIn_eq, if_pos (by omega), hk]
        dsimp only
        omega
    · have hn : n = (180 * x.length + 65535) / 65536 := by
        simp only [n, Slot.blockCount, hk, blockCountOf, divUp, Config.blockBytes, Nat.mul_comm]
        rfl
      refine ⟨hn, by simp only [Slot.chunkCount, hk, chunkCountOf], fun hpos => ?_⟩
      rw [Slot.bytesIn_eq, if_pos (by omega), hk]
    · rw [Slot.bytesIn_eq, if_neg (by omega)]
  case readsBack =>
    intro n
    have hle : n ≤ 65536 := Slot.bytesIn_le hb
    have hstored : (data.take n).length = n := List.length_take_of_le (by omega)
    refine ⟨hle, ?_⟩
    have hread := readBytes_writeBytes hm (x.blockAddress b) (data.take n)
    rw [hstored] at hread
    simp only [imageBlock]
    rw [show x.bytesIn b = n from rfl, hread]

end Sys2Proof.Machine
end

section
/-!
PROOFS. JOB DEFINE and JOB AMEND (R23, R25, R26): the fields of a definition as a payload gives them, each left out by
its marker (R208), and what settling makes of them.
-/

namespace Sys2Proof.Machine

/-! ## Fields that may be left out (R208) -/

/-- A byte other than the marker is the number it holds. -/
theorem optByte_of_ne {b : Byte} (h : b ≠ 0xFF#8) : optByte b = some b.toNat := if_neg h

theorem byte_ne_marker {n : Nat} (h : n < 255) : byte n ≠ 0xFF#8 := fun hb => by
  have hn : (byte n).toNat = n := byte_toNat (by omega)
  rw [hb] at hn
  have : (0xFF#8 : Byte).toNat = 255 := rfl
  omega

/-- A slot number, or its marker. -/
theorem optSlot_elim (x : Option SlotNum) : optSlot (x.elim 0xFF#8 (byte ·.val)) = some x := by
  cases x with
  | none => rfl
  | some n =>
    have hne : byte n.val ≠ 0xFF#8 := byte_ne_marker (by omega)
    simp only [Option.elim_some, optSlot, if_neg hne, numbered_byte (by decide) n, Option.map_some]

theorem optSlot_none {b : Byte} (h : 7 < b.toNat) (hne : b ≠ 0xFF#8) : optSlot b = none := by
  simp only [optSlot, if_neg hne, numbered_none h, Option.map_none]

theorem optSlot_given {b : Byte} (h : b.toNat ≤ 7) : ∃ n, optSlot b = some (some n) := by
  have hb : b = byte (⟨b.toNat, Nat.lt_succ_of_le h⟩ : SlotNum).val := (byte_toNat_self b).symm
  exact ⟨_, by rw [hb]; exact optSlot_elim (some _)⟩

theorem optSlot_tooGreat {b : Byte} {x : Option SlotNum} (h : 7 < b.toNat) (hx : optSlot b = some x) : x = none := by
  by_cases hb : b = 0xFF#8
  · rw [optSlot, if_pos hb] at hx
    cases hx
    rfl
  · rw [optSlot_none h hb] at hx
    cases hx

/-- A name that may be left out, of a list whose names are spelt by the codes below `k`. -/
theorem optNamed_none {α : Type} {names : Nat → Option α} {b : Byte} (hne : b ≠ 0xFF#8)
    (h : names b.toNat = none) : optNamed names b = none := by
  simp only [optNamed, optByte_of_ne hne, h, Option.map_none]

theorem optNamed_given {α : Type} {names : Nat → Option α} {b : Byte} {x : α} (hne : b ≠ 0xFF#8)
    (h : names b.toNat = some x) : optNamed names b = some (some x) := by
  simp only [optNamed, optByte_of_ne hne, h, Option.map_some]

theorem mediaOf_none {n : Nat} (h : 2 < n) : mediaOf n = none := by
  match n, h with
  | _ + 3, _ => rfl

theorem verifyOf_none {n : Nat} (h : 2 < n) : verifyOf n = none := by
  match n, h with
  | _ + 3, _ => rfl

theorem gradeOf_none {n : Nat} (h : 3 < n) : gradeOf n = none := by
  match n, h with
  | _ + 4, _ => rfl

theorem mediaOf_given {n : Nat} (h : n ≤ 2) : ∃ m, mediaOf n = some m := by
  match n, h with
  | 0, _ => exact ⟨_, rfl⟩
  | 1, _ => exact ⟨_, rfl⟩
  | 2, _ => exact ⟨_, rfl⟩

theorem verifyOf_given {n : Nat} (h : n ≤ 2) : ∃ v, verifyOf n = some v := by
  match n, h with
  | 0, _ => exact ⟨_, rfl⟩
  | 1, _ => exact ⟨_, rfl⟩
  | 2, _ => exact ⟨_, rfl⟩

theorem gradeOf_given {n : Nat} (h : n ≤ 3) : ∃ g, gradeOf n = some g := by
  match n, h with
  | 0, _ => exact ⟨_, rfl⟩
  | 1, _ => exact ⟨_, rfl⟩
  | 2, _ => exact ⟨_, rfl⟩
  | 3, _ => exact ⟨_, rfl⟩

theorem optMedia_tooGreat {b : Byte} {x : Option Media} (h : 2 < b.toNat) (hx : optNamed mediaOf b = some x) :
    x = none := by
  by_cases hb : b = 0xFF#8
  · simp only [optNamed, optByte, if_pos hb] at hx
    cases hx
    rfl
  · rw [optNamed_none hb (mediaOf_none h)] at hx
    cases hx

theorem optMedia_elim (x : Option Media) : optNamed mediaOf (x.elim 0xFF#8 (byte ·.code)) = some x := by
  cases x with
  | none => rfl
  | some m => cases m <;> rfl

theorem optVerify_elim (x : Option VerifyMode) : optNamed verifyOf (x.elim 0xFF#8 (byte ·.code)) = some x := by
  cases x with
  | none => rfl
  | some m => cases m <;> rfl

theorem optGrade_elim (x : Option Grade) : optNamed gradeOf (x.elim 0xFF#8 (byte ·.rank)) = some x := by
  cases x with
  | none => rfl
  | some m => cases m <;> rfl

theorem optVerify_of_ok {b : Byte} (h : ¬ (2 < b.toNat ∧ b ≠ 0xFF#8)) : ∃ v, optNamed verifyOf b = some v := by
  by_cases hb : b = 0xFF#8
  · exact ⟨none, by subst hb; rfl⟩
  · obtain ⟨v, hv⟩ := verifyOf_given (n := b.toNat) (Nat.not_lt.1 fun hgreat => h ⟨hgreat, hb⟩)
    exact ⟨some v, optNamed_given hb hv⟩

theorem optGrade_of_ok {b : Byte} (h : ¬ (3 < b.toNat ∧ b ≠ 0xFF#8)) : ∃ g, optNamed gradeOf b = some g := by
  by_cases hb : b = 0xFF#8
  · exact ⟨none, by subst hb; rfl⟩
  · obtain ⟨g, hg⟩ := gradeOf_given (n := b.toNat) (Nat.not_lt.1 fun hgreat => h ⟨hgreat, hb⟩)
    exact ⟨some g, optNamed_given hb hg⟩

theorem optSlot_of_ok {b : Byte} (h : ¬ (7 < b.toNat ∧ b ≠ 0xFF#8)) : ∃ n, optSlot b = some n := by
  by_cases hb : b = 0xFF#8
  · exact ⟨none, by subst hb; rfl⟩
  · obtain ⟨n, hn⟩ := optSlot_given (b := b) (Nat.not_lt.1 fun hgreat => h ⟨hgreat, hb⟩)
    exact ⟨_, hn⟩

/-! ## Settled values -/

/-- A setting with a one-byte field: what it becomes, and whether a number given for it was clamped. -/
theorem settleNat_optByte (lo hi old : Nat) (b : Byte) :
    let x := if b = 0xFF#8 then old else clampNat lo hi b.toNat
    settleNat lo hi old (optByte b) = ⟨x, b ≠ 0xFF#8 ∧ x ≠ b.toNat⟩ := by
  by_cases h : b = 0xFF#8
  · simp [optByte, h, settleNat]
  · simp [optByte, h, settleNat, bne]
    rfl

/-- A setting with a two-byte field. -/
theorem settleNat_optWord (lo hi old : Nat) (b0 b1 : Byte) :
    let x := if num16 b0 b1 = 65535 then old else clampNat lo hi (num16 b0 b1)
    settleNat lo hi old (optWord b0 b1) = ⟨x, num16 b0 b1 ≠ 65535 ∧ x ≠ num16 b0 b1⟩ := by
  by_cases h : num16 b0 b1 = 65535
  · simp [optWord, h, settleNat]
  · simp [optWord, h, settleNat, bne]
    rfl

/-- A density trim. -/
theorem settleInt_optTrim (lo hi old : Int) (b : Byte) :
    let x := if b = 0x80#8 then old else clampInt lo hi b.toInt
    settleInt lo hi old (optTrim b) = ⟨x, b ≠ 0x80#8 ∧ x ≠ b.toInt⟩ := by
  by_cases h : b = 0x80#8
  · simp [optTrim, h, settleInt]
  · simp [optTrim, h, settleInt, bne]
    rfl

/-- The response of a command that settles values: DONE_CLAMPED exactly when one of them was clamped. -/
theorem settled_eq {clamped : Bool} {P : Prop} [Decidable P] (h : clamped = true ↔ P) (bytes : List Byte) :
    Response.settled clamped bytes = if P then .doneClamped bytes else .done bytes := by
  simp only [Response.settled, h]

/-! ## A definition as a payload gives it -/

/-- The fields of 13 bytes, once each name and slot number among them has been read. -/
theorem parseDefn_given {amend : Bool} {ds m t0 t1 ss sp v g sa lb tr r0 r1 : Byte} {slot : Option SlotNum}
    {media : Option Media} {mode : Option VerifyMode} {limit : Option Grade} {label : Option (Option SlotNum)}
    (hslot : optSlot ds = some slot) (hmedia : optNamed mediaOf m = some media)
    (hmode : optNamed verifyOf v = some mode) (hlimit : optNamed gradeOf g = some limit)
    (hlabel : optLabel amend lb = some label) :
    parseDefn amend [ds, m, t0, t1, ss, sp, v, g, sa, lb, tr, r0, r1] =
      some ⟨slot, media, optWord t0 t1, optByte ss, optByte sp, mode, limit, optByte sa, label, optTrim tr,
        optWord r0 r1⟩ := by
  simp only [parseDefn, hslot, hmedia, hmode, hlimit, hlabel]
  rfl

/-- A name or a slot number that is not in its list leaves no definition. -/
theorem parseDefn_none {amend : Bool} {ds m t0 t1 ss sp v g sa lb tr r0 r1 : Byte}
    (h : optSlot ds = none ∨ optNamed mediaOf m = none ∨ optNamed verifyOf v = none ∨ optNamed gradeOf g = none ∨
      optLabel amend lb = none) :
    parseDefn amend [ds, m, t0, t1, ss, sp, v, g, sa, lb, tr, r0, r1] = none := by
  simp only [parseDefn]
  rcases h with h | h | h | h | h <;> simp [h]

/-- What was read of a definition that was read. -/
theorem parseDefn_fields {amend : Bool} {ds m t0 t1 ss sp v g sa lb tr r0 r1 : Byte} {f : DefFields}
    (h : parseDefn amend [ds, m, t0, t1, ss, sp, v, g, sa, lb, tr, r0, r1] = some f) :
    optSlot ds = some f.discSlot ∧ optNamed mediaOf m = some f.media ∧ f.target = optWord t0 t1 ∧
      optNamed verifyOf v = some f.verify ∧ optNamed gradeOf g = some f.gradeLimit ∧
      optLabel amend lb = some f.label := by
  simp only [parseDefn, Option.bind_eq_bind, Option.bind_eq_some_iff] at h
  obtain ⟨slot, hslot, media, hmedia, verify, hverify, grade, hgrade, label, hlabel, hf⟩ := h
  cases hf
  exact ⟨hslot, hmedia, rfl, hverify, hgrade, hlabel⟩

theorem optLabel_define (b : Byte) : optLabel false b = (optSlot b).map (·.map some) := rfl

/-! ## JOB DEFINE (R23, R25) -/

/-- JOB DEFINE with slot, media and target given drafts a job. -/
theorem jobDefineBody_given {payload : List Byte} {f : DefFields} {slot : SlotNum} {m : Media} {t : Nat}
    (hf : parseDefn false payload = some f) (hslot : f.discSlot = some slot) (hmedia : f.media = some m)
    (htarget : f.target = some t) (p : Part) : jobDefineBody payload p = draftJob slot m t f p := by
  simp only [jobDefineBody, hf, hslot, hmedia, htarget]

/-- JOB DEFINE with a slot, media or target left out is refused with RANGE. -/
theorem jobDefineBody_leftOut {payload : List Byte}
    (h : ∀ f, parseDefn false payload = some f → f.discSlot = none ∨ f.media = none ∨ f.target = none) (p : Part) :
    jobDefineBody payload p = (.refused .range [], p) := by
  unfold jobDefineBody
  split
  · rfl
  · rename_i f hf
    split
    · rename_i hslot hmedia htarget
      rcases h f hf with h | h | h
      · rw [h] at hslot; cases hslot
      · rw [h] at hmedia; cases hmedia
      · rw [h] at htarget; cases htarget
    · rfl

theorem draftJob_tableFull {p : Part} (h : ∀ j : JobNum, p.jobs[j] ≠ none) (slot : SlotNum) (m : Media) (t : Nat)
    (f : DefFields) : draftJob slot m t f p = (.refused .tableFull [], p) := by
  have hnone : lowest p.jobs Option.isNone = none :=
    lowest_none fun j => Option.isNone_eq_false_iff.2 (Option.isSome_iff_ne_none.2 (h j))
  simp only [draftJob, hnone, refuse_eq]

/-- The first free record of a table. -/
theorem lowest_free {α : Type} {n : Nat} {v : Vector (Option α) n} {j : Fin n} (h : v[j] = none)
    (hbefore : ∀ i : Fin n, i < j → v[i] ≠ none) : lowest v Option.isNone = some j :=
  lowest_some (by simp only [h, Option.isNone_none]) fun i hi =>
    Option.isNone_eq_false_iff.2 (Option.isSome_iff_ne_none.2 (hbefore i hi))

/-- Settles O17: the payload gives the fields, and drafting settles them against the defaults. -/
theorem jobDefineDrafts : Obligations.JobDefineDrafts := by
  unfold Obligations.JobDefineDrafts
  refine ⟨?drafts, fun l payload fill s hopen hlen => ⟨?_, ?_⟩⟩
  case drafts =>
    intro l slot media t0 t1 ss sp sa tr r0 r1 mode limit label j fill s hopen ht hfree hbefore target setSize speed
      allowance trim rejects grade clamped
    have hparse := parseDefn_given (amend := false) (t0 := t0) (t1 := t1) (ss := ss) (sp := sp) (sa := sa) (tr := tr)
      (r0 := r0) (r1 := r1) (optSlot_elim (some slot)) (optMedia_elim (some media)) (optVerify_elim mode)
      (optGrade_elim limit) ((optLabel_define _).trans (congrArg _ (optSlot_elim label)))
    refine linkCommand_completes hopen (by simp) rfl ((jobDefineBody_given hparse rfl rfl (if_neg ht) _).trans ?_)
    simp only [draftJob, lowest_free hfree hbefore]
    refine Prod.ext (settled_eq ?_ _) ?_
    · simp only [settleDefn, settleNat_optByte, settleNat_optWord, settleInt_optTrim, if_neg ht, Bool.or_eq_true,
        decide_eq_true_eq]
      simp only [clamped, target, setSize, speed, allowance, trim, rejects, JobDef.initial, or_assoc]
      tauto
    · have hgrade : settleGrade (mode.getD .digest) none limit = grade := by
        cases mode with
        | none => rfl
        | some v => cases v <;> rfl
      have hlabel : (Option.map some label).getD none = label := by cases label <;> rfl
      simp only [settleDefn, settleNat_optByte, settleNat_optWord, settleInt_optTrim, if_neg ht, JobDef.initial,
        hgrade, hlabel, Option.getD_some]
      rfl
  · exact fun hne => linkCommand_completes hopen hlen rfl (jobDefineBody_badLength hne _)
  · rintro ds m t0 t1 ss sp v g sa lb tr r0 r1 rfl bad
    refine ⟨fun hbad => linkCommand_completes hopen hlen rfl (jobDefineBody_leftOut (fun f hf => ?_) _),
      fun hgood hfull => ?_⟩
    · obtain ⟨hslot, hmedia, htarget, hverify, hgrade, hlabel⟩ := parseDefn_fields hf
      rcases hbad with h | h | h | ⟨h, hne⟩ | ⟨h, hne⟩ | ⟨h, hne⟩
      · exact .inl (optSlot_tooGreat h hslot)
      · exact .inr (.inl (optMedia_tooGreat h hmedia))
      · exact .inr (.inr (htarget.trans (if_pos h)))
      · exact absurd (optNamed_none hne (verifyOf_none h)) (by simp [hverify])
      · exact absurd (optNamed_none hne (gradeOf_none h)) (by simp [hgrade])
      · rw [optLabel_define, optSlot_none h hne] at hlabel
        cases hlabel
    · simp only [bad, not_or] at hgood
      obtain ⟨hds, hm, ht, hv, hg, hlb⟩ := hgood
      obtain ⟨slot, hslot⟩ := optSlot_given (Nat.not_lt.1 hds)
      obtain ⟨media, hmedia⟩ := mediaOf_given (Nat.not_lt.1 hm)
      obtain ⟨mode, hmode⟩ := optVerify_of_ok hv
      obtain ⟨limit, hlimit⟩ := optGrade_of_ok hg
      obtain ⟨label, hlabel⟩ := optSlot_of_ok hlb
      have hne : m ≠ 0xFF#8 := fun h => hm (by rw [h]; decide)
      have hparse := parseDefn_given (amend := false) (t0 := t0) (t1 := t1) (ss := ss) (sp := sp) (sa := sa)
        (tr := tr) (r0 := r0) (r1 := r1) hslot (optNamed_given hne hmedia) hmode hlimit
        ((optLabel_define _).trans (congrArg _ hlabel))
      exact linkCommand_completes hopen hlen rfl
        ((jobDefineBody_given hparse rfl rfl (if_neg ht) _).trans (draftJob_tableFull hfull ..))

/-! ## JOB AMEND (R25, R26) -/

theorem amendJob_state {x : Job} (h : x.state ≠ .draft) (bytes : List Byte) (j : JobNum) (p : Part) :
    amendJob bytes j x p = (.refused .state [], p) := by
  simp only [amendJob, if_pos h, refuse_eq]

theorem amendJob_range {x : Job} {bytes : List Byte} (h : x.state = .draft) (hparse : parseDefn true bytes = none)
    (j : JobNum) (p : Part) : amendJob bytes j x p = (.refused .range [], p) := by
  simp only [amendJob, h, ne_eq, not_true_eq_false, if_false, hparse, rangeError, refuse_eq]

theorem amendJob_settles {x : Job} {bytes : List Byte} {f : DefFields} (h : x.state = .draft)
    (hparse : parseDefn true bytes = some f) (j : JobNum) (p : Part) :
    amendJob bytes j x p =
      (.settled (settleDefn x.defn f).clamped [], setJob j (some { x with defn := (settleDefn x.defn f).value }) p) := by
  simp only [amendJob, h, ne_eq, not_true_eq_false, if_false, hparse]

/-- The record that a job command names does what the command's rule makes of it (R24). -/
theorem onJob_held {j : JobNum} {x : Job} {p : Part} (h : p.jobs[j] = some x)
    (f : JobNum → Job → Part → Response × Part) : onJob (byte j.val) f p = f j x p := by
  have hnum : numbered 12 (byte j.val) = some j := numbered_byte (by decide) j
  simp only [onJob, hnum, h]

/-- The grade limit that a command leaves (R25). -/
theorem settleGrade_eq (v : VerifyMode) (old given : Option Grade) :
    settleGrade v old given = if v = .graded then some (given.getD (old.getD .c)) else none := by
  cases v <;> rfl

/-- Settles O18: the payload gives the fields, and an amendment settles them against the record's own. -/
theorem jobAmendSettles : Obligations.JobAmendSettles := by
  unfold Obligations.JobAmendSettles
  refine ⟨fun l j x bytes fill s hopen hx hlen hstate => ?state, ?range, ?settles⟩
  case state => exact jobAmend_completes hopen hlen ((onJob_held hx _).trans (amendJob_state hstate ..))
  case range =>
    intro l j x ds m t0 t1 ss sp v g sa lb tr r0 r1 fill s hopen hx hstate hbad
    refine jobAmend_completes hopen rfl ((onJob_held hx _).trans (amendJob_range hstate (parseDefn_none ?_) ..))
    rcases hbad with ⟨h, hne⟩ | ⟨h, hne⟩ | ⟨h, hne⟩ | ⟨h, hne⟩ | ⟨h, hfe, hff⟩
    · exact .inl (optSlot_none h hne)
    · exact .inr (.inl (optNamed_none hne (mediaOf_none h)))
    · exact .inr (.inr (.inl (optNamed_none hne (verifyOf_none h))))
    · exact .inr (.inr (.inr (.inl (optNamed_none hne (gradeOf_none h)))))
    · refine .inr (.inr (.inr (.inr ?_)))
      simp [optLabel, hfe, optSlot_none h hff]
  case settles =>
    intro l j x slot media mode limit t0 t1 ss sp sa lb tr r0 r1 fill s hopen hx hstate old target setSize speed verify
      grade allowance trim rejects clamped leaves
    have settles : ∀ label : Option (Option SlotNum), optLabel true lb = some label →
        leaves (label.getD old.labelSlot) := by
      intro label hlabel
      have hparse := parseDefn_given (t0 := t0) (t1 := t1) (ss := ss) (sp := sp) (sa := sa) (tr := tr)
        (r0 := r0) (r1 := r1) (optSlot_elim slot) (optMedia_elim media) (optVerify_elim mode) (optGrade_elim limit)
        hlabel
      refine jobAmend_completes hopen rfl ((onJob_held hx _).trans ((amendJob_settles hstate hparse ..).trans ?_))
      refine Prod.ext (settled_eq ?_ _) ?_
      · simp only [settleDefn, settleNat_optByte, settleNat_optWord, settleInt_optTrim, Bool.or_eq_true,
          decide_eq_true_eq]
        simp only [clamped, target, setSize, speed, allowance, trim, rejects, old, or_assoc]
      · simp only [settleDefn, settleNat_optByte, settleNat_optWord, settleInt_optTrim, settleGrade_eq]
        rfl
    refine ⟨fun h => settles none (by subst h; rfl), fun h => settles (some none) (by subst h; rfl),
      fun n h => settles (some (some n)) ?_⟩
    have hfe : byte n.val ≠ 0xFE#8 := by
      intro hb
      have hn : (byte n.val).toNat = n.val := byte_toNat (by omega)
      rw [hb] at hn
      have : (0xFE#8 : Byte).toNat = 254 := rfl
      omega
    have hslot : optSlot (byte n.val) = some (some n) := optSlot_elim (some n)
    simp [optLabel, h, hfe, hslot]

end Sys2Proof.Machine
end

section
/-!
PROOFS. Admission (R29), and the commands that move a job from state to state: JOB QUEUE, HALT, RESUME and REMOVE, with
JOB STATUS (R27, R34, R35, R39, R41).
-/

namespace Sys2Proof.Machine

/-! ## Admission (R29) -/

theorem isQueued_iff (p : Part) (j : JobNum) : isQueued p j = true ↔ ∃ x, p.jobs[j] = some x ∧ x.state = .queued := by
  unfold isQueued
  cases p.jobs[j] with
  | none => simp
  | some x => simp

/-- With a place free, the first QUEUED job of the run list is admitted. -/
theorem admitOne_takes {p : Part} {j : JobNum} {x : Job} (hfree : placesHeld p < 2)
    (hfind : p.runList.find? (isQueued p) = some j) (hx : p.jobs[j] = some x) :
    admitOne p = setJobState j x .running none p := by
  simp only [admitOne, if_pos hfree, hfind, hx]

theorem admitOne_full {p : Part} (h : 2 ≤ placesHeld p) : admitOne p = p := by
  simp only [admitOne, if_neg (Nat.not_lt.2 h)]

theorem admitOne_noneQueued {p : Part} (h : p.runList.find? (isQueued p) = none) : admitOne p = p := by
  simp only [admitOne, h, ite_self]

/-- A job that is admitted takes a place more (R29). -/
theorem setJobState_running_places {p : Part} {j : JobNum} {x : Job} (hx : p.jobs[j] = some x)
    (hstate : x.state = .queued) : placesHeld (setJobState j x .running none p) = placesHeld p + 1 := by
  have hcount := placesHeld_setJob j (some { x with state := .running, haltReason := none }) p
  have hbefore : placesOf p.jobs[j] = 0 := by simp [hx, placesOf, hstate, JobState.holdsPlace]
  have hafter : placesOf (some { x with state := .running, haltReason := none }) = 1 := rfl
  rw [hbefore, hafter] at hcount
  exact hcount

/-- What one admission does: nothing for want of a place or of a QUEUED job, or one job goes from QUEUED to RUNNING. -/
theorem admitOne_cases (p : Part) :
    (2 ≤ placesHeld p ∧ admitOne p = p) ∨ (p.runList.find? (isQueued p) = none ∧ admitOne p = p) ∨
      ∃ j x, p.runList.find? (isQueued p) = some j ∧ p.jobs[j] = some x ∧ x.state = .queued ∧
        admitOne p = setJobState j x .running none p := by
  rcases Nat.lt_or_ge (placesHeld p) 2 with hfree | hfull
  · cases hfind : p.runList.find? (isQueued p) with
    | none => exact .inr (.inl ⟨rfl, admitOne_noneQueued hfind⟩)
    | some j =>
      obtain ⟨x, hx, hstate⟩ := (isQueued_iff p j).1 (List.find?_some hfind)
      exact .inr (.inr ⟨j, x, rfl, hx, hstate, admitOne_takes hfree hfind hx⟩)
  · exact .inl ⟨hfull, admitOne_full hfull⟩

/-- What admission does to the record of a job. -/
theorem admitOne_job (p : Part) (j : JobNum) :
    (admitOne p).jobs[j] = p.jobs[j] ∨ ∃ x, p.jobs[j] = some x ∧ x.state = .queued ∧
      (admitOne p).jobs[j] = some { x with state := .running, haltReason := none } := by
  rcases admitOne_cases p with ⟨-, h⟩ | ⟨-, h⟩ | ⟨k, x, -, hx, hstate, h⟩
  · exact .inl (by rw [h])
  · exact .inl (by rw [h])
  · rw [h]
    by_cases hjk : j = k
    · subst hjk
      exact .inr ⟨x, hx, hstate, put_get_self ..⟩
    · exact .inl (put_get_other _ _ _ _ hjk)

/-- A job that waits for a place or has one goes on doing so through admission. -/
theorem admitOne_queuedOrRunning {p : Part} {j : JobNum} {x : Job} (hx : p.jobs[j] = some x)
    (hstate : x.state = .queued ∨ x.state = .running) :
    ∃ y, (admitOne p).jobs[j] = some y ∧ (y.state = .queued ∨ y.state = .running) := by
  rcases admitOne_job p j with h | ⟨y, -, -, h⟩
  · exact ⟨x, h.trans hx, hstate⟩
  · exact ⟨_, h, .inr rfl⟩

theorem admitJobs_queuedOrRunning {p : Part} {j : JobNum} {x : Job} (hx : p.jobs[j] = some x)
    (hstate : x.state = .queued ∨ x.state = .running) :
    ∃ y, (admitJobs p).jobs[j] = some y ∧ (y.state = .queued ∨ y.state = .running) := by
  obtain ⟨y, hy, hstate⟩ := admitOne_queuedOrRunning hx hstate
  exact admitOne_queuedOrRunning hy hstate

/-- A job that is not QUEUED is left alone by admission. -/
theorem admitJobs_notQueued {p : Part} {j : JobNum} {x : Job} (hx : p.jobs[j] = some x) (hstate : x.state ≠ .queued) :
    (admitJobs p).jobs[j] = some x := by
  have once : ∀ {q : Part}, q.jobs[j] = some x → (admitOne q).jobs[j] = some x := by
    intro q hq
    rcases admitOne_job q j with h | ⟨y, hy, hqueued, -⟩
    · exact h.trans hq
    · rw [hq] at hy
      cases hy
      exact absurd hqueued hstate
  exact once (once hx)

theorem find_isQueued_none {p : Part} (h : p.runList.find? (isQueued p) = none) :
    ∀ j ∈ p.runList, ∀ y, p.jobs[j] = some y → y.state ≠ .queued := fun j hj y hy hstate =>
  absurd ((isQueued_iff p j).2 ⟨y, hy, hstate⟩) (List.find?_eq_none.1 h j hj)

/-- Settles O21: one admission takes the first QUEUED job, and two of them fill the places or find none. -/
theorem admissionTakesTheEarliest : Obligations.AdmissionTakesTheEarliest := by
  unfold Obligations.AdmissionTakesTheEarliest
  refine ⟨fun p before after j x hfree hlist hx hstate hbefore => ?_, fun p => ?_⟩
  · have hfind : p.runList.find? (isQueued p) = some j := by
      refine List.find?_eq_some_iff_append.2 ⟨(isQueued_iff p j).2 ⟨x, hx, hstate⟩, before, after, hlist, ?_⟩
      intro i hi
      rw [Bool.not_eq_true', ← Bool.not_eq_true, isQueued_iff]
      rintro ⟨y, hy, hqueued⟩
      exact hbefore i hi y hy hqueued
    exact admitOne_takes hfree hfind hx
  · have done : ∀ {q : Part}, admitOne q = q → (2 ≤ placesHeld q ∨ q.runList.find? (isQueued q) = none) →
        2 ≤ placesHeld (admitOne q) ∨
          ∀ j ∈ (admitOne q).runList, ∀ y, (admitOne q).jobs[j] = some y → y.state ≠ .queued := by
      intro q hq h
      rw [hq]
      exact h.imp id find_isQueued_none
    unfold admitJobs
    rcases admitOne_cases p with ⟨hfull, h⟩ | ⟨hnone, h⟩ | ⟨j, x, -, hx, hstate, h⟩
    · rw [h]
      exact done h (.inl hfull)
    · rw [h]
      exact done h (.inr hnone)
    · have hone : 1 ≤ placesHeld (admitOne p) := by
        rw [h, setJobState_running_places hx hstate]
        omega
      rcases admitOne_cases (admitOne p) with ⟨hfull, h2⟩ | ⟨hnone, h2⟩ | ⟨i, y, -, hy, hqueued, h2⟩
      · exact done h2 (.inl hfull)
      · exact done h2 (.inr hnone)
      · rw [h2, setJobState_running_places hy hqueued]
        exact .inl (by omega)

/-! ## The answer of a job command -/

/-- The answer carries the state that the command leaves the job in. -/
theorem jobStateResponse_eq {p : Part} {j : JobNum} {y : Job} (h : p.jobs[j] = some y) :
    jobStateResponse j p = (.done [byte y.state.code], p) := by
  simp only [jobStateResponse, h]

/-- A job command whose rule answers for a record that is held completes. -/
theorem jobCommand_completes {i : Link → List Byte → Nat → Instr} {l : Link} {j : JobNum} {x : Job} {fill : Nat}
    {s : State} {f : JobNum → Job → Part → Response × Part} {r : Response} {p : Part} (hopen : LinkOpen l s)
    (hx : s.part.jobs[j] = some x)
    (hexec : exec (i l [byte j.val] fill) s = linkCommand l [byte j.val] fill (onJobByte [byte j.val] f) s)
    (hrule : f j x s.part = (r, p)) : Completes i l [byte j.val] fill s r p :=
  jobByteCommand_completes hopen hexec ((onJob_held hx f).trans hrule)

/-! ## JOB QUEUE (R27) -/

/-- A slot is FROZEN and of a kind (R27). -/
theorem frozenOf_iff (p : Part) (k : ImageKind) (n : SlotNum) :
    frozenOf p k n = true ↔ ∃ y, p.slots[n] = some y ∧ y.kind = k ∧ y.state = .frozen := by
  unfold frozenOf
  cases p.slots[n] with
  | none => simp
  | some y => simp

theorem labelFrozen_iff (d : JobDef) (p : Part) :
    labelFrozen d p = true ↔
      ∀ n, d.labelSlot = some n → ∃ y, p.slots[n] = some y ∧ y.kind = .label ∧ y.state = .frozen := by
  unfold labelFrozen
  cases d.labelSlot with
  | none => simp
  | some n =>
    simp only [frozenOf_iff, Option.some.injEq]
    exact ⟨fun h m hm => hm ▸ h, fun h => h n rfl⟩

theorem imageFits_some {d : JobDef} {p : Part} {y : Slot} (h : p.slots[d.discSlot] = some y) :
    imageFits d p = decide (y.length ≤ capacity d.media) := by
  simp only [imageFits, h]

/-- The part that JOB QUEUE leaves before admission: references taken, the job QUEUED at the end of the run list. -/
def queuedPart (j : JobNum) (x : Job) (p : Part) : Part :=
  let p := setJobState j x .queued none (takeRefs x.defn p)
  { p with runList := p.runList ++ [j] }

/-- JOB QUEUE of a job that passes its checks (R27). -/
theorem queueJob_queues {j : JobNum} {x : Job} {p : Part} (hstate : x.state = .draft)
    (hdisc : frozenOf p .disc x.defn.discSlot = true) (hlabel : labelFrozen x.defn p = true)
    (hfits : imageFits x.defn p = true) :
    queueJob j x p =
      ((jobStateResponse j (admitJobs (queuedPart j x p))).1, settle (admitJobs (queuedPart j x p))) := by
  simp only [queueJob, hstate, hdisc, hlabel, hfits, ne_eq, not_true_eq_false, if_false, Bool.not_true, Bool.or_self,
    Bool.false_eq_true]
  rfl

/-- The references that a queued job takes (R12, R27). -/
theorem takeRefs_eq {d : JobDef} {p : Part} {x : Slot} {label : Option (SlotNum × Slot)}
    (hx : p.slots[d.discSlot] = some x) (hkind : x.kind = .disc) (hl : d.labelSlot = label.map Prod.fst)
    (hlabel : ∀ n y, label = some (n, y) → p.slots[n] = some y ∧ y.kind = .label) :
    takeRefs d p =
      let slots := put p.slots d.discSlot (some { x with refs := x.refs + 1 })
      { p with slots := match label with
        | none => slots
        | some (n, y) => put slots n (some { y with refs := y.refs + 1 }) } := by
  have hdisc : takeRef d.discSlot p = setSlot d.discSlot (some { x with refs := x.refs + 1 }) p := by
    simp only [takeRef, hx]
  cases label with
  | none =>
    simp only [Option.map_none] at hl
    simp only [takeRefs, hl, hdisc]
    rfl
  | some ny =>
    obtain ⟨n, y⟩ := ny
    obtain ⟨hy, hyk⟩ := hlabel n y rfl
    simp only [Option.map_some] at hl
    have hne : n ≠ d.discSlot := by
      rintro rfl
      rw [hx] at hy
      cases hy
      rw [hkind] at hyk
      cases hyk
    have hget : (setSlot d.discSlot (some { x with refs := x.refs + 1 }) p).slots[n] = some y :=
      (put_get_other _ _ _ _ hne).trans hy
    simp only [takeRefs, hl, hdisc]
    simp only [takeRef, hget]
    rfl

theorem capacity_fits {m : Media} {n : Nat} (hcd : m = .cd → n ≤ 360000) (hdvd : m = .dvd → n ≤ 2295104)
    (hbd : m = .bd → n ≤ 12219392) : n ≤ capacity m := by
  cases m with
  | cd => exact hcd rfl
  | dvd => exact hdvd rfl
  | bd => exact hbd rfl

/-- Settles O20: a draft that passes the four checks takes its references and is admitted, or waits. -/
theorem jobQueueTakesReferences : Obligations.JobQueueTakesReferences := by
  unfold Obligations.JobQueueTakesReferences
  refine ⟨?queues, fun l j x fill s hopen hx => ?refuses⟩
  case queues =>
    intro l j x d label fill s hopen hx hstate hd hkind hfrozen hcd hdvd hbd hslots hlabel slots q
    have hfitsDisc : frozenOf s.part .disc x.defn.discSlot = true := (frozenOf_iff ..).2 ⟨d, hd, hkind, hfrozen⟩
    have hlabelFrozen : labelFrozen x.defn s.part = true := by
      refine (labelFrozen_iff ..).2 fun n hn => ?_
      rw [hslots, Option.map_eq_some_iff] at hn
      obtain ⟨⟨n', y⟩, hny, rfl⟩ := hn
      exact ⟨y, hlabel _ _ hny⟩
    have hfits : imageFits x.defn s.part = true := by
      rw [imageFits_some hd]
      exact decide_eq_true (capacity_fits hcd hdvd hbd)
    have hq : queuedPart j x s.part = q := by
      unfold queuedPart
      rw [takeRefs_eq hd hkind hslots fun n y h => ⟨(hlabel n y h).1, (hlabel n y h).2.1⟩]
      rfl
    have hjob : q.jobs[j] = some { x with state := .queued, haltReason := none } := put_get_self ..
    obtain ⟨y, hy, hyState⟩ := admitJobs_queuedOrRunning hjob (.inl rfl)
    refine ⟨y, hy, hyState, jobCommand_completes hopen hx rfl ?_⟩
    rw [queueJob_queues hstate hfitsDisc hlabelFrozen hfits, hq, jobStateResponse_eq hy]
  case refuses =>
    intro refusedWith good labelGood
    have refused : ∀ {r}, queueJob j x s.part = (.refused r [], s.part) → refusedWith r :=
      fun h => jobCommand_completes hopen hx rfl h
    refine ⟨fun hstate => refused ?_, fun hstate hdisc => refused ?_, fun hstate hdisc hlabel => refused ?_,
      fun y hstate hy hdisc hlabel hgreat => refused ?_⟩
    · simp only [queueJob, if_pos hstate, refuse_eq]
    · have hnot : frozenOf s.part .disc x.defn.discSlot = false := Bool.eq_false_iff.2 (mt (frozenOf_iff ..).1 hdisc)
      simp only [queueJob, hstate, hnot, ne_eq, not_true_eq_false, if_false, Bool.not_false, Bool.true_or, if_true,
        refuse_eq]
    · have hnot : labelFrozen x.defn s.part = false := Bool.eq_false_iff.2 (mt (labelFrozen_iff ..).1 hlabel)
      simp only [queueJob, hstate, hnot, ne_eq, not_true_eq_false, if_false, Bool.not_false, Bool.or_true, if_true,
        refuse_eq]
    · have hd : frozenOf s.part .disc x.defn.discSlot = true := (frozenOf_iff ..).2 hdisc
      have hl : labelFrozen x.defn s.part = true := (labelFrozen_iff ..).2 hlabel
      have hnot : imageFits x.defn s.part = false := by
        rw [imageFits_some hy, decide_eq_false_iff_not, Nat.not_le]
        rcases hgreat with ⟨hm, h⟩ | ⟨hm, h⟩ | ⟨hm, h⟩ <;> rw [hm] <;> exact h
      simp only [queueJob, hstate, hd, hl, hnot, ne_eq, not_true_eq_false, if_false, Bool.not_true, Bool.or_self,
        Bool.false_eq_true, Bool.not_false, if_true, rangeError, refuse_eq]

/-! ## JOB HALT, RESUME, REMOVE and STATUS (R34, R35, R39, R41) -/

/-- A HALTING job whose drain is judged stays HALTING, or becomes HALTED (R34). -/
theorem endDrain_halting {p : Part} {j : JobNum} {x : Job} (hx : p.jobs[j] = some x) (hstate : x.state = .halting) :
    ∃ y, (endDrain j p).jobs[j] = some y ∧ (y.state = .halting ∨ y.state = .halted) := by
  simp only [endDrain, hx, hstate]
  split
  · have hjob : (setJobState j x .halted x.haltReason p).jobs[j] = some { x with state := .halted } := put_get_self ..
    exact ⟨_, admitJobs_notQueued hjob (by simp), .inr rfl⟩
  · exact ⟨x, hx, .inl hstate⟩

/-- The states in which JOB HALT is refused. -/
theorem haltJob_state {j : JobNum} {x : Job} {p : Part} (hrun : x.state ≠ .running) (hqueued : x.state ≠ .queued) :
    haltJob j x p = (.refused .state [], p) := by
  unfold haltJob
  split
  · contradiction
  · contradiction
  · rfl

/-- The states in which JOB RESUME is refused. -/
theorem resumeJob_state {j : JobNum} {x : Job} {p : Part} (hhalting : x.state ≠ .halting) (hhalted : x.state ≠ .halted) :
    resumeJob j x p = (.refused .state [], p) := by
  unfold resumeJob
  split
  · contradiction
  · contradiction
  · rfl

theorem removable_iff (st : JobState) : st.removable = true ↔ st = .draft ∨ st = .done ∨ st = .cancelled := by
  cases st <;> simp [JobState.removable]

/-- Settles O22: the state of the named job says which branch of each command is taken. -/
theorem jobStatesByCommand : Obligations.JobStatesByCommand := by
  unfold Obligations.JobStatesByCommand
  refine ⟨fun l j x fill s hopen hx => ?haltResume, fun l j x fill s hopen hx => ?removeStatus⟩
  case haltResume =>
    intro halts resumes becomes
    have halt : ∀ {r p}, haltJob j x s.part = (r, p) → halts r p := fun h => jobCommand_completes hopen hx rfl h
    have resume : ∀ {r p}, resumeJob j x s.part = (r, p) → resumes r p := fun h => jobCommand_completes hopen hx rfl h
    have hjob : ∀ st w, (setJobState j x st w s.part).jobs[j] = some { x with state := st, haltReason := w } :=
      fun st w => put_get_self ..
    refine ⟨fun hstate => ?_, fun hstate => halt ?_, fun hrun hqueued => halt (haltJob_state hrun hqueued),
      fun hstate => resume ?_, fun hstate => ?_, fun hhalting hhalted => resume (resumeJob_state hhalting hhalted)⟩
    · intro q
      have hq : (withdrawPickOf j (becomes .halting (some .operator))).jobs[j] =
          some { x with state := .halting, haltReason := some .operator } := by
        simp only [withdrawPickOf_keeps]
        exact hjob ..
      obtain ⟨y, hy, hyState⟩ := endDrain_halting hq rfl
      refine ⟨y, hy, hyState, halt ?_⟩
      have hhalt : haltRunning j x .operator s.part = q := rfl
      simp only [haltJob, hstate, hhalt]
      rw [jobStateResponse_eq hy]
    · simp only [haltJob, hstate, jobStateResponse_eq (hjob ..)]
      rfl
    · simp only [resumeJob, hstate, jobStateResponse_eq (hjob ..)]
      rfl
    · intro q
      obtain ⟨y, hy, hyState⟩ := admitJobs_queuedOrRunning (hjob .queued none) (.inl rfl)
      refine ⟨y, hy, hyState, resume ?_⟩
      simp only [resumeJob, hstate, jobStateResponse_eq hy]
      rfl
  case removeStatus =>
    intro removes
    have remove : ∀ {r p}, removeJob j x s.part = (r, p) → removes r p := fun h => jobCommand_completes hopen hx rfl h
    refine ⟨fun hstate => remove ?_, fun hdraft hdone hcancelled => remove ?_,
      jobCommand_completes (f := statusOfJob) hopen hx rfl rfl⟩
    · simp only [removeJob, (removable_iff _).2 hstate, if_true]
      rfl
    · have hnot : ¬ x.state.removable = true := by simp [removable_iff, hdraft, hdone, hcancelled]
      simp only [removeJob, if_neg hnot, refuse_eq]

end Sys2Proof.Machine
end

section
/-!
PROOFS. Settings: BURN SETTINGS and VERIFY LIMITS (R115, R149), PRINT SETTINGS (R165), RIBBON LOADED (R170) and THERMAL
LIMITS (R182, R209).
-/

namespace Sys2Proof.Machine

/-! ## Values that a command settles -/

/-- The response of a command that settles values: DONE exactly when none of them was changed. -/
theorem settled_eq_same {clamped : Bool} {P : Prop} [Decidable P] (h : clamped = true ↔ ¬ P) (bytes : List Byte) :
    Response.settled clamped bytes = if P then .done bytes else .doneClamped bytes := by
  rw [settled_eq h, ite_not]

/-- A setting that a command carries is clamped to its range, and one that it leaves out is kept. -/
theorem settleNat_eq (lo hi old : Nat) (x : Option Nat) :
    settleNat lo hi old x = ⟨x.elim old (clampNat lo hi), decide (x.elim old (clampNat lo hi) ≠ x.getD old)⟩ := by
  cases x with
  | none => simp [settleNat]
  | some x =>
    rw [settleNat, Settled.mk.injEq]
    exact ⟨rfl, Bool.eq_iff_iff.2 (bne_iff_ne.trans decide_eq_true_iff.symm)⟩

/-! ## BURN SETTINGS and VERIFY LIMITS (R115, R149) -/

/-- Raising a limit to the one before it. -/
theorem max_eq_raise (a b : Nat) : max a b = if b < a then a else b := by
  by_cases h : b < a
  · rw [if_pos h, Nat.max_eq_left (Nat.le_of_lt h)]
  · rw [if_neg h, Nat.max_eq_right (Nat.not_lt.1 h)]

/-- Settles O44: both commands settle each value they carry, and say whether one was changed. -/
theorem burnAndGradeSettings : Obligations.BurnAndGradeSettings := by
  unfold Obligations.BurnAndGradeSettings
  intro l fill s hopen old lim given kept
  refine ⟨fun g0 g1 pr st => ?burn, fun a0 a1 b0 b1 c0 c1 => ?limits⟩
  case burn =>
    intro g q t new same answer
    have hvalue : settleBurn old (optWord g0 g1) (optByte pr) (optByte st) = ⟨new, decide (¬ same)⟩ := by
      simp only [settleBurn, settleNat_eq, same, new, BurnSettings.mk.injEq, not_and_or, Settled.mk.injEq]
      rw [Bool.eq_iff_iff]
      simp only [Bool.or_eq_true, decide_eq_true_eq, or_assoc]
      exact ⟨⟨rfl, rfl, rfl⟩, Iff.rfl⟩
    refine linkCommand_completes (f := burnSettingsBody [g0, g1, pr, st]) hopen (by simp) rfl ?_
    simp only [burnSettingsBody]
    rw [show s.part.engine.settings = old from rfl, hvalue]
    exact Prod.ext (settled_eq_same decide_eq_true_iff _) rfl
  case limits =>
    intro word a b c lb lc same answer
    have hvalue : settleLimits lim (optWord a0 a1) (optWord b0 b1) (optWord c0 c1) =
        ⟨⟨a, lb, lc⟩, decide (¬ same)⟩ := by
      simp only [settleLimits, settleNat_eq, max_eq_raise, same, not_and_or, Settled.mk.injEq]
      refine ⟨rfl, ?_⟩
      rw [Bool.eq_iff_iff]
      simp only [Bool.or_eq_true, decide_eq_true_eq, or_assoc, bne_iff_ne]
      exact Iff.rfl
    refine linkCommand_completes (f := verifyLimitsBody [a0, a1, b0, b1, c0, c1]) hopen (by simp) rfl ?_
    simp only [verifyLimitsBody]
    rw [show s.part.verifier.limits = lim from rfl, hvalue]
    exact Prod.ext (settled_eq_same decide_eq_true_iff _) rfl

/-! ## PRINT SETTINGS (R165) -/

theorem optWord_getD (b0 b1 : Byte) (keep : Nat) :
    (optWord b0 b1).getD keep = if num16 b0 b1 = 65535 then keep else num16 b0 b1 := by
  simp only [optWord]
  split <;> rfl

theorem optByte_getD (b : Byte) (keep : Nat) : (optByte b).getD keep = if b = 0xFF#8 then keep else b.toNat := by
  simp only [optByte]
  split <;> rfl

/-- Settles O50: the eight values are written over those held, and then settled in their order. -/
theorem printSettingsAreSettled : Obligations.PrintSettingsAreSettled := by
  unfold Obligations.PrintSettingsAreSettled
  intro l a0 a1 b0 b1 k c0 c1 d0 d1 e0 e1 f0 f1 g0 g1 fill s hopen old word given ro tmin tmax new answer
  have hgiven : PrintFields.over ⟨optWord a0 a1, optWord b0 b1, optByte k, optWord c0 c1, optWord d0 d1, optWord e0 e1,
      optWord f0 f1, optWord g0 g1⟩ old = given := by
    simp only [PrintFields.over, optWord_getD, optByte_getD]
    rfl
  have hnew : given.settle = new := by
    simp only [PrintSettings.settle, max_eq_raise]
    rfl
  refine linkCommand_completes
    (f := printSettingsBody [a0, a1, b0, b1, k, c0, c1, d0, d1, e0, e1, f0, f1, g0, g1]) hopen (by simp) rfl ?_
  simp only [printSettingsBody, settlePrint]
  rw [show s.part.printer.settings = old from rfl, hgiven, hnew]
  exact Prod.ext (settled_eq_same bne_iff_ne _) rfl

/-! ## RIBBON LOADED (R170) -/

/-- A RIBBON LOADED with a length, when neither the switch nor the printer's state stands in its way. -/
theorem ribbonLoadedBody_taken {l0 l1 l2 l3 t0 t1 : Byte} {p : Part} (hlen : num32 l0 l1 l2 l3 ≠ 4294967295)
    (hbusy : ¬ (p.printer.state = .printing ∨ p.printer.state = .pausedHot)) :
    ribbonLoadedBody [l0, l1, l2, l3, t0, t1] false p = loadRibbon (num32 l0 l1 l2 l3) (optWord t0 t1) p := by
  rw [not_or] at hbusy
  simp only [ribbonLoadedBody, optQuad, if_neg hlen, hbusy.1, hbusy.2, decide_false, Bool.or_self, Bool.false_eq_true,
    if_false]

theorem ribbonLoadedBody_state {l0 l1 l2 l3 t0 t1 : Byte} {p : Part} {broken : Bool}
    (hlen : num32 l0 l1 l2 l3 ≠ 4294967295)
    (h : broken = true ∨ p.printer.state = .printing ∨ p.printer.state = .pausedHot) :
    ribbonLoadedBody [l0, l1, l2, l3, t0, t1] broken p = (.refused .state [], p) := by
  have htest : (broken || decide (p.printer.state = .printing) || decide (p.printer.state = .pausedHot)) = true := by
    simpa [or_assoc] using h
  simp only [ribbonLoadedBody, optQuad, if_neg hlen, htest, if_true, refuse_eq]

theorem ribbonLoadedBody_noLength {l0 l1 l2 l3 t0 t1 : Byte} (hlen : num32 l0 l1 l2 l3 = 4294967295) (broken : Bool)
    (p : Part) : ribbonLoadedBody [l0, l1, l2, l3, t0, t1] broken p = (.refused .range [], p) := by
  simp only [ribbonLoadedBody, optQuad, if_pos hlen, rangeError, refuse_eq]

theorem clampNat_zero (hi x : Nat) : clampNat 0 hi x = if hi < x then hi else x := by
  simp [clampNat]

/-- A ribbon that is taken: the response, and the printer it leaves (R170). -/
theorem loadRibbon_eq (length : Nat) (t0 t1 : Byte) (p : Part) :
    let n := if 4000000 < length then 4000000 else length
    let tb := if num16 t0 t1 = 65535 then p.printer.strobe else clampNat 100 2000 (num16 t0 t1)
    let same := n = length ∧ (num16 t0 t1 = 65535 ∨ tb = num16 t0 t1)
    let answer := le32 n ++ le16 tb
    loadRibbon length (optWord t0 t1) p =
      (if same then .done answer else .doneClamped answer,
        settle (raiseIf (p.printer.state = .idle && n = 0) .printer
          { p with printer := { p.printer with ribbon := n, strobe := tb, state := ribbonState p.printer n } })) := by
  intro n tb same answer
  simp only [loadRibbon, clampNat_zero, settleNat_optWord]
  refine Prod.ext (settled_eq_same ?_ _) rfl
  simp only [Bool.or_eq_true, bne_iff_ne, decide_eq_true_eq, same, not_and_or, not_or]
  exact Iff.rfl

/-- Settles O51: the checks in their order, then the ribbon and the state that it leaves. -/
theorem ribbonLoadedIsTaken : Obligations.RibbonLoadedIsTaken := by
  unfold Obligations.RibbonLoadedIsTaken
  intro l l0 l1 l2 l3 t0 t1 broken fill s hopen p length completes busy
  have loads : ∀ {r q}, ribbonLoadedBody [l0, l1, l2, l3, t0, t1] broken p = (r, q) → completes r q :=
    fun h => linkCommand_sampling (payload := [l0, l1, l2, l3, t0, t1]) hopen (by simp) rfl h
  refine ⟨fun h => loads (ribbonLoadedBody_noLength h _ _), fun h hstate => loads (ribbonLoadedBody_state h hstate),
    fun hlen hbroken hbusy => ?_⟩
  intro n tb same answer resp becomes
  subst hbroken
  have taken : completes resp (settle (raiseIf (p.printer.state = .idle && n = 0) .printer
      (becomes (ribbonState p.printer n)))) :=
    loads ((ribbonLoadedBody_taken hlen hbusy).trans (loadRibbon_eq ..))
  refine ⟨fun hstate hn => ?_, fun hstate hn => ?_, fun hstate hn hdisc => ?_, fun hstate hn hdisc => ?_,
    fun hstate hn => ?_, fun hstate => ?_⟩
  · have hn0 : n ≠ 0 := Nat.ne_of_gt hn
    simpa only [ribbonState, hstate, if_neg hn0, raiseIf, hn0, decide_false, Bool.and_false, Bool.false_eq_true,
      if_false] using taken
  · simpa only [ribbonState, hstate, if_pos hn, raiseIf, hn, decide_true, Bool.and_self, if_true] using taken
  · have hn0 : n ≠ 0 := Nat.ne_of_gt hn
    simpa only [ribbonState, hstate, if_neg hn0, raiseIf, hdisc, Option.isSome_none, reduceCtorEq, decide_false,
      Bool.false_and, Bool.false_eq_true, if_false] using taken
  · have hn0 : n ≠ 0 := Nat.ne_of_gt hn
    have hsome : p.printer.disc.isSome = true := Option.isSome_iff_ne_none.2 hdisc
    simpa only [ribbonState, hstate, if_neg hn0, raiseIf, hsome, if_true, reduceCtorEq, decide_false,
      Bool.false_and, Bool.false_eq_true, if_false] using taken
  · simpa only [ribbonState, hstate, if_pos hn, raiseIf, reduceCtorEq, decide_false, Bool.false_and,
      Bool.false_eq_true, if_false] using taken
  · simpa only [ribbonState, hstate, raiseIf, reduceCtorEq, decide_false, Bool.false_and, Bool.false_eq_true,
      if_false] using taken

/-! ## THERMAL LIMITS (R182, R209) -/

/-- The number that a temperature word holds (R209). -/
theorem wordTemp_eq {w : Nat} (h : w < 1024) : wordTemp w = if w < 512 then (w : Int) else (w : Int) - 1024 := by
  simp only [wordTemp, BitVec.toInt_eq_toNat_cond, BitVec.toNat_ofNat]
  split <;> split <;> omega

/-- The temperature word of a temperature that ten bits hold (R209). -/
theorem tempWord_eq {t : Int} (hlo : -512 ≤ t) (hhi : t ≤ 511) :
    tempWord t = if 0 ≤ t then t.toNat else (t + 1024).toNat := by
  simp only [tempWord, BitVec.toNat_ofInt]
  split <;> omega

theorem optTemp_ok {b0 b1 : Byte} (h : ¬ (1024 ≤ num16 b0 b1 ∧ num16 b0 b1 ≠ 65535)) :
    ∃ x, optTemp b0 b1 = some x ∧ ∀ keep : Int, x.getD keep =
      if num16 b0 b1 = 65535 then keep
      else if num16 b0 b1 < 512 then (num16 b0 b1 : Int) else (num16 b0 b1 : Int) - 1024 := by
  by_cases hmark : num16 b0 b1 = 65535
  · exact ⟨none, if_pos hmark, fun keep => (if_pos hmark).symm⟩
  · have hlow : num16 b0 b1 < 1024 := Nat.not_le.1 fun hge => h ⟨hge, hmark⟩
    refine ⟨some (wordTemp (num16 b0 b1)), ?_, fun keep => ?_⟩
    · simp only [optTemp, if_neg hmark, if_pos hlow]
    · rw [if_neg hmark, Option.getD_some, wordTemp_eq hlow]

theorem optTemp_none {b0 b1 : Byte} (h : 1024 ≤ num16 b0 b1 ∧ num16 b0 b1 ≠ 65535) : optTemp b0 b1 = none := by
  simp only [optTemp, if_neg h.2, if_neg (Nat.not_lt.2 h.1)]

/-- A pair of limits, settled, written out. -/
theorem LimitPair.settle_eq (g : LimitPair) :
    g.settle =
      let h := clampInt (-160) 511 g.high
      let h := if 503 < h then 503 else h
      let c := clampInt (-160) 511 g.critical
      ⟨h, if c < h + 8 then h + 8 else c⟩ := by
  simp only [LimitPair.settle, clampTemp, LimitPair.mk.injEq]
  constructor
  · split <;> omega
  · split <;> split <;> omega

/-- The bytes of a pair of limits that is in range. -/
theorem pairBytes_eq {x : LimitPair} (h : x.legal) :
    pairBytes x =
      le16 (if 0 ≤ x.high then x.high.toNat else (x.high + 1024).toNat) ++
        le16 (if 0 ≤ x.critical then x.critical.toNat else (x.critical + 1024).toNat) := by
  obtain ⟨hlo, hgap, hhi⟩ := h
  simp only [pairBytes]
  rw [tempWord_eq (by omega) (by omega), tempWord_eq (by omega) (by omega)]

/-- Settles O53: a word above ten bits is refused, and otherwise each pair is written, settled and answered with. -/
theorem thermalLimitsAreSettled : Obligations.ThermalLimitsAreSettled := by
  unfold Obligations.ThermalLimitsAreSettled
  intro l a0 a1 b0 b1 c0 c1 d0 d1 e0 e1 f0 f1 fill s hopen old bad word settled out bytes completes wrong
  have hexec : ∀ {r q}, thermalLimitsBody [a0, a1, b0, b1, c0, c1, d0, d1, e0, e1, f0, f1] s.part = (r, q) →
      completes r q := fun h => linkCommand_completes hopen (by simp) rfl h
  refine ⟨fun hwrong => hexec ?_, fun hok => ?_⟩
  · have hparse : parseLimits [a0, a1, b0, b1, c0, c1, d0, d1, e0, e1, f0, f1] = none := by
      simp only [parseLimits]
      rcases hwrong with h | h | h | h | h | h <;> simp [optTemp_none h]
    simp only [thermalLimitsBody, hparse, rangeError, refuse_eq]
  · intro given new answer
    simp only [wrong, not_or] at hok
    obtain ⟨ha, hb, hc, hd, he, hf⟩ := hok
    obtain ⟨a, hpa, hga⟩ := optTemp_ok ha
    obtain ⟨b, hpb, hgb⟩ := optTemp_ok hb
    obtain ⟨c, hpc, hgc⟩ := optTemp_ok hc
    obtain ⟨d, hpd, hgd⟩ := optTemp_ok hd
    obtain ⟨e, hpe, hge⟩ := optTemp_ok he
    obtain ⟨f, hpf, hgf⟩ := optTemp_ok hf
    have hparse : parseLimits [a0, a1, b0, b1, c0, c1, d0, d1, e0, e1, f0, f1] = some ⟨a, b, c, d, e, f⟩ := by
      simp only [parseLimits, hpa, hpb, hpc, hpd, hpe, hpf]
      rfl
    have hgiven : LimitFields.over ⟨a, b, c, d, e, f⟩ old = given := by
      simp only [LimitFields.over, LimitPair.over, hga, hgb, hgc, hgd, hge, hgf]
      rfl
    have hpair : ∀ g : LimitPair, settled g = g.settle := fun g => (LimitPair.settle_eq g).symm
    have hnew : given.settle = new := by
      simp only [new, hpair, ThermalLimits.settle]
    have hbytes : ∀ g : LimitPair, pairBytes g.settle = bytes g.settle :=
      fun g => pairBytes_eq (limitPair_settle_legal g)
    have hanswer : thermalLimitBytes new = answer := by
      simp only [thermalLimitBytes, answer, new, hpair, hbytes]
    refine hexec ?_
    simp only [thermalLimitsBody, hparse, settleThermal]
    rw [show s.part.thermal.limits = old from rfl, hgiven, hnew, hanswer]
    exact Prod.ext (settled_eq_same bne_iff_ne _) rfl

end Sys2Proof.Machine
end

section
/-!
PROOFS. Samples and conditions (R176, R180, R181), the commands of a bay (R85, R86, R89) and the speed of a session
(R120).
-/

namespace Sys2Proof.Machine

/-! ## Conditions and samples -/

/-- The table of R180, row by row. -/
theorem judge_eq {lim : LimitPair} (before : Condition) (r : Int) (h : lim.high + 8 ≤ lim.critical) :
    judge lim before r =
      match before with
      | .normal => if r < lim.high then .normal else if r < lim.critical then .high else .critical
      | .high => if r < lim.high - 8 then .normal else if r < lim.critical then .high else .critical
      | .critical => if r < lim.critical - 8 then .high else .critical := by
  cases before <;> simp only [judge]
  case normal => (repeat' split) <;> first | rfl | omega
  case high => (repeat' split) <;> first | rfl | omega
  case critical => (repeat' split) <;> first | rfl | omega

/-- The changes that are rises (R181). -/
theorem raiseIf_rises (a b : Condition) (f : Flag) (p : Part) :
    raiseIf (rises a b) f p = if a = .normal ∧ b ≠ .normal ∨ a = .high ∧ b = .critical then raise f p else p := by
  cases a <;> cases b <;> rfl

theorem sampleAmbient_eq (v : Int) (p : Part) :
    let c := judge p.thermal.limits.ambient p.thermal.ambient.condition (clampInt (-160) 511 v)
    sampleAmbient v p =
      raiseIf (rises p.thermal.ambient.condition c) .thermal
        { p with thermal := { p.thermal with ambient := ⟨some (clampInt (-160) 511 v), c, some 1000⟩ } } := rfl

theorem sampleHead_eq (v : Int) (p : Part) :
    let c := judge p.thermal.limits.head p.thermal.head.condition (clampInt (-160) 511 v)
    sampleHead v p =
      raiseIf (rises p.thermal.head.condition c) .thermal
        { p with thermal := { p.thermal with head := ⟨some (clampInt (-160) 511 v), c, some 1000⟩ } } := rfl

theorem sampleBay_eq (b : BayNum) (v : Int) (p : Part) :
    let c := judge p.thermal.limits.bay p.thermal.bays[b].condition (clampInt (-160) 511 v)
    sampleBay b v p =
      raiseIf (rises p.thermal.bays[b].condition c) .thermal
        { p with thermal := { p.thermal with
            bays := put p.thermal.bays b ⟨some (clampInt (-160) 511 v), c, p.thermal.bays[b].timer⟩ } } := rfl

/-- A HEAD sample leaves HEAD in the condition that is judged. -/
theorem sampleHead_condition (v : Int) (p : Part) :
    (sampleHead v p).thermal.head.condition =
      judge p.thermal.limits.head p.thermal.head.condition (clampInt (-160) 511 v) := by
  simp only [sampleHead_eq, raiseIf_keeps]

/-- Settles O52: a sample is one judgement by the table and one flag, and a periodic HEAD sample may cool the printer. -/
theorem samplesAreJudged : Obligations.SamplesAreJudged := by
  unfold Obligations.SamplesAreJudged
  refine ⟨fun lim before r h => judge_eq before r h, fun v s hheld => ?_⟩
  intro p th q marks
  have hmarks : ∀ (a b : Condition) (r : Part), marks a b r = raiseIf (rises a b) .thermal r :=
    fun a b r => (raiseIf_rises a b .thermal r).symm
  refine ⟨?ambient, ?head, fun b => ?bay⟩
  case ambient =>
    intro c
    rw [hmarks]
    exact event_happens (f := fun p => settle (sampleAmbient v p)) hheld rfl
  case head =>
    intro c r
    have hr : sampleHead v p = r := by
      simp only [r, hmarks]
      exact sampleHead_eq v p
    have hc : (sampleHead v p).thermal.head.condition = c := sampleHead_condition v p
    have periodic : Happens (.headPeriodicSample v) s (settle (headPeriodic v p)) :=
      event_happens (f := fun p => settle (headPeriodic v p)) hheld rfl
    have hperiodic : headPeriodic v p =
        if th.head.condition = .critical ∧ c = .high then headCooled r else r := by
      rw [hr] at hc
      simp only [headPeriodic, hr, hc, Bool.and_eq_true, decide_eq_true_eq]
      rfl
    rw [hperiodic] at periodic
    refine ⟨hr, fun h1 h2 => ?_, fun h => ?_⟩
    · rwa [if_pos ⟨h1, h2⟩] at periodic
    · rwa [if_neg (by rw [not_and_or]; exact h)] at periodic
  case bay =>
    intro c
    rw [hmarks]
    exact sampleBay_eq b v p

/-! ## The commands of a bay -/

/-- A command that names a bay by its number does to the part what its rule does to that bay. -/
theorem onBay_byte (b : BayNum) (f : BayNum → Part → Response × Part) (p : Part) :
    onBay [byte b.val] f p = f b p := by
  simp only [onBay, numbered_byte (by decide) b]

theorem onBay_numberTooGreat {b : Byte} (h : 9 < b.toNat) (f : BayNum → Part → Response × Part) (p : Part) :
    onBay [b] f p = (.refused .range [], p) := by
  simp only [onBay, numbered_none h, rangeError, refuse_eq]

/-- A command whose payload is a bay number completes with what its rule makes of the part. -/
theorem bayCommand_completes {i : Link → List Byte → Nat → Instr} {l : Link} {b : BayNum} {fill : Nat} {s : State}
    {f : BayNum → Part → Response × Part} {r : Response} {p : Part} (hopen : LinkOpen l s)
    (hexec : exec (i l [byte b.val] fill) s = linkCommand l [byte b.val] fill (onBay [byte b.val] f) s)
    (hrule : f b s.part = (r, p)) : Completes i l [byte b.val] fill s r p :=
  linkCommand_completes hopen (by simp) hexec ((onBay_byte b f s.part).trans hrule)

theorem Bay.disable_atOnce {x : Bay} (hon : x.enabled = true) (h : x.state = .empty ∨ x.state = .offline) :
    x.disable = { x with enabled := false } := by
  rw [Bay.disable, if_pos hon, if_pos h]

theorem Bay.disable_pending {x : Bay} (hon : x.enabled = true) (h : ¬ (x.state = .empty ∨ x.state = .offline)) :
    x.disable = { x with disablePending := true } := by
  rw [Bay.disable, if_pos hon, if_neg h]

theorem Bay.disable_disabled {x : Bay} (h : x.enabled = false) : x.disable = x := by
  rw [Bay.disable, if_neg (by simp [h])]

/-- BAY DISABLE of a bay whose record the command makes `y` (R86). -/
theorem disableBay_eq {b : BayNum} {p : Part} {y : Bay} (h : p.bays[b].disable = y) :
    disableBay b p =
      (.done (yes y.enabled ++ yes y.disablePending),
        settle (raiseIf (p.bays[b].enabled && !y.enabled) .bay { p with bays := put p.bays b y })) := by
  subst h
  rfl

/-- A table in which an entry is replaced by itself. -/
theorem put_self {α : Type} {n : Nat} (v : Vector α n) (i : Fin n) : put v i v[i] = v := by
  simp [put]

/-- Settles O33: each command rewrites or reads the record of the bay that its byte names. -/
theorem bayCommandsActOnOneBay : Obligations.BayCommandsActOnOneBay := by
  unfold Obligations.BayCommandsActOnOneBay
  intro l fill s hopen
  refine ⟨fun b hb => ⟨?_, ?_, ?_⟩, fun b => ?_⟩
  · exact linkCommand_completes hopen (by simp) rfl (onBay_numberTooGreat hb enableBay _)
  · exact linkCommand_completes hopen (by simp) rfl (onBay_numberTooGreat hb disableBay _)
  · exact linkCommand_completes hopen (by simp) rfl (onBay_numberTooGreat hb statusOfBay _)
  · intro x becomes on pending
    have disables : ∀ {r p}, disableBay b s.part = (r, p) → Completes .bayDisable l [byte b.val] fill s r p :=
      fun h => bayCommand_completes hopen rfl h
    refine ⟨bayCommand_completes (f := enableBay) hopen rfl (Prod.ext rfl ?_), fun hon hstate => disables ?_,
      fun hon hempty hoffline => disables ?_, fun hoff => disables ?_,
      bayCommand_completes (f := statusOfBay) hopen rfl rfl⟩
    · have hraise : raiseIf (!x.enabled) .bay on = if x.enabled then on else raise .bay on := by
        cases x.enabled <;> rfl
      rw [← hraise]
      rfl
    · rw [disableBay_eq (Bay.disable_atOnce hon hstate)]
      simp only [show s.part.bays[b].enabled = true from hon]
      rfl
    · rw [disableBay_eq (Bay.disable_pending hon (not_or.2 ⟨hempty, hoffline⟩))]
      refine Prod.ext ?_ (congrArg settle ?_)
      · show Response.done (yes x.enabled ++ yes true) = .done [1, 1]
        rw [hon]
        rfl
      · show raiseIf (x.enabled && !x.enabled) .bay (becomes { x with disablePending := true }) = _
        rw [Bool.and_not_self]
        rfl
    · rw [disableBay_eq (Bay.disable_disabled hoff), put_self]
      simp only [show s.part.bays[b].enabled = false from hoff]
      rfl

/-! ## The speed of a session (R120) -/

theorem hot_iff (c : Condition) : c.hot = true ↔ c = .high ∨ c = .critical := by
  cases c <;> simp [Condition.hot]

theorem halved_eq (v : Nat) : halved v = if v / 2 = 0 then 1 else v / 2 := by
  rw [halved]
  split <;> omega

theorem halved_bounds {v : Nat} (h : v ≤ 48) : 1 ≤ halved v ∧ halved v ≤ 48 := by
  rw [halved_eq]
  split <;> omega

/-- Folding `min` over some numbers gives a lower bound of them that is one of them or the start. -/
theorem foldl_min_spec (xs : List Nat) (k : Nat) :
    xs.foldl min k ≤ k ∧ (∀ x ∈ xs, xs.foldl min k ≤ x) ∧ (xs.foldl min k = k ∨ xs.foldl min k ∈ xs) := by
  induction xs generalizing k with
  | nil => exact ⟨Nat.le_refl k, nofun, .inl rfl⟩
  | cons x xs ih =>
    obtain ⟨hk, hxs, hmem⟩ := ih (min k x)
    refine ⟨Nat.le_trans hk (Nat.min_le_left k x), fun y hy => ?_, ?_⟩
    · rcases List.mem_cons.1 hy with rfl | hy
      · exact Nat.le_trans hk (Nat.min_le_right k y)
      · exact hxs y hy
    · rcases hmem with h | h
      · rcases Nat.le_total k x with hkx | hxk
        · exact .inl (h.trans (Nat.min_eq_left hkx))
        · exact .inr (List.mem_cons.2 (.inl (h.trans (Nat.min_eq_right hxk))))
      · exact .inr (List.mem_cons_of_mem x h)

/-- Among some numbers that the bound does not undercut, folding `min` gives the least. -/
theorem foldl_min_mem {xs : List Nat} {k : Nat} (hne : xs ≠ []) (hk : ∀ x ∈ xs, x ≤ k) : xs.foldl min k ∈ xs := by
  obtain ⟨-, hxs, hmem⟩ := foldl_min_spec xs k
  rcases hmem with h | h
  · obtain ⟨x, rest, rfl⟩ := List.exists_cons_of_ne_nil hne
    have hx : x ∈ x :: rest := List.mem_cons_self
    have hkx : x = k := Nat.le_antisymm (hk x hx) (Nat.le_trans (Nat.le_of_eq h.symm) (hxs x hx))
    rw [h, ← hkx]
    exact hx
  · exact h

/-- A member's speed lies between 1 and 48 where its maximum does (R120). -/
theorem memberSpeed_bounds {p : Part} {m : Media} {b : BayNum}
    (h : 1 ≤ p.bays[b].capability.speed m ∧ p.bays[b].capability.speed m ≤ 48) :
    1 ≤ memberSpeed p m b ∧ memberSpeed p m b ≤ 48 := by
  simp only [memberSpeed]
  split
  · exact halved_bounds h.2
  · exact h

/-- Settles O42: the least member speed is what the fold gives, then the request and AMBIENT may lower it. -/
theorem sessionSpeedIsFixed : Obligations.SessionSpeedIsFixed := by
  unfold Obligations.SessionSpeedIsFixed
  intro p m request bays hne hspeeds hot half member
  have hhalf : ∀ v, halved v = half v := halved_eq
  have hmember : ∀ b, memberSpeed p m b = member b := by
    intro b
    simp only [memberSpeed, hot_iff, hhalf]
    rfl
  have hbounds : ∀ x ∈ bays.map (memberSpeed p m), 1 ≤ x ∧ x ≤ 48 := by
    intro x hx
    obtain ⟨b, hb, rfl⟩ := List.mem_map.1 hx
    exact memberSpeed_bounds (hspeeds b hb)
  have hmem := foldl_min_mem (k := 48) (by simpa using hne) fun x hx => (hbounds x hx).2
  obtain ⟨b, hb, hleast⟩ := List.mem_map.1 hmem
  refine ⟨(bays.map (memberSpeed p m)).foldl min 48, fun c hc => ?_, ⟨b, hb, by rw [← hmember, hleast]⟩, ?_⟩
  · rw [← hmember]
    exact (foldl_min_spec _ 48).2.1 _ (List.mem_map_of_mem hc)
  · intro v
    have hv : 1 ≤ v ∧ v ≤ 48 := by
      have := hbounds _ hmem
      simp only [v]
      split <;> omega
    have hspeed : sessionSpeed p m request bays = if hot p.thermal.ambient.condition then half v else v := by
      simp only [sessionSpeed, hot_iff, hhalf, Bool.and_eq_true, bne_iff_ne, decide_eq_true_eq]
      rfl
    refine ⟨hspeed, ?_⟩
    rw [hspeed]
    split
    · rw [← hhalf]
      exact halved_bounds hv.2
    · exact hv

end Sys2Proof.Machine
end

section
/-!
PROOFS. The records that the part answers with (12.4, 12.5), and the leaving of tower reset (R13, R70, R77, R157, R184,
R196, R198).
-/

namespace Sys2Proof.Machine

/-! ## Records -/

/-- A table's entries, in order of their numbers. -/
theorem vector_toList_eq_map {α : Type} {n : Nat} (v : Vector α n) :
    v.toList = (List.finRange n).map fun i => v[i] := by
  refine List.ext_getElem (by simp) fun i h1 h2 => ?_
  simp

/-- The mark of a disc without an order, and of one whose first order is known (R71). -/
theorem orderMark_eq {p : Part} {id : Nat} {mark : Byte}
    (h : ((∀ o ∈ p.flow.queue, o.disc ≠ id) ∧ mark = 0) ∨
      ∃ before o after, p.flow.queue = before ++ o :: after ∧ (∀ x ∈ before, x.disc ≠ id) ∧ o.disc = id ∧
        mark = if p.flow.issued = some o then 2 else 1) : orderMark p id = mark := by
  rcases h with ⟨hnone, rfl⟩ | ⟨before, o, after, hq, hbefore, ho, rfl⟩
  · have hfind : orderOf p id = none := List.find?_eq_none.2 fun o ho => by simpa using hnone o ho
    simp only [orderMark, hfind]
  · have hfind : orderOf p id = some o :=
      List.find?_eq_some_iff_append.2 ⟨by simpa using ho, before, after, hq, fun x hx => by simpa using hbefore x hx⟩
    simp only [orderMark, hfind, isIssued, decide_eq_true_eq]

theorem tempWord_lt (t : Int) : tempWord t < 1024 := (BitVec.ofInt 10 t).isLt

/-- Settles O45: each status command hands out its record, and each record is its fields in the order of 12.5. -/
theorem recordsAreRead : Obligations.RecordsAreRead := by
  unfold Obligations.RecordsAreRead
  refine ⟨fun l fill s hopen => ?commands, ?layouts, ?codes⟩
  case commands =>
    refine ⟨fun n => ?_, fun b hb => ?_, ?_, ?_, fun broken tray => ?_⟩
    · refine linkCommand_completes (f := sessionStatusBody [byte n.val]) hopen (by simp) rfl ?_
      simp only [sessionStatusBody, numbered_byte (by decide) n]
    · refine linkCommand_completes (f := sessionStatusBody [b]) hopen (by simp) rfl ?_
      simp only [sessionStatusBody, numbered_none hb, rangeError, refuse_eq]
    · exact noPayloadCommand_completes (f := verifyStatus) hopen rfl rfl
    · exact noPayloadCommand_completes (f := thermalRead) hopen rfl rfl
    · obtain ⟨t, hexec, hpending, hpins, hmem, hanswer, hpart⟩ := linkCommand_sampling (payload := []) (fill := fill)
        (i := .printerStatus l [] fill broken tray)
        (pins := { s.pins with breakShown := broken, trayShown := tray })
        (f := noPayload [] (printerStatus { s.pins with breakShown := broken, trayShown := tray })) hopen (by simp)
        rfl rfl
      exact ⟨t, hexec, hpending, hpins, hmem, hpins.symm ▸ hanswer, hpart⟩
  case layouts =>
    intro yes' one two disc temp timer
    have hyes : ∀ b, yes b = yes' b := fun _ => rfl
    have hone : ∀ n, encByte n = one n := fun n => by cases n <;> rfl
    have htwo : ∀ n, encWord n = two n := fun n => by cases n <;> rfl
    have hdisc : ∀ n, encId n = disc n := fun n => by cases n <;> rfl
    have htemp : ∀ t, encTemp t = temp t := fun t => by cases t <;> rfl
    have htimer : ∀ t, encTimer t = timer t := fun t => by cases t <;> rfl
    refine ⟨fun t hlo hhi => ⟨tempWord_lt t, tempWord_eq hlo hhi⟩, fun n => rfl, fun n x => ?slot, fun p j x => ?job,
      fun p d mark hmark => ?disc, fun p b => ?bay, fun p n => ⟨fun hnone => ?noSession, fun x hx => ?session⟩,
      fun p => ?verify, fun p pins => ?printer, fun p => ?thermal, fun e => ?entry⟩
    case slot =>
      simp only [slotRecord]
      cases x.digest <;> rfl
    case job =>
      simp only [jobRecord, defnBytes, hone, List.append_assoc, List.cons_append, List.nil_append]
      rfl
    case disc => simp only [discRecord, orderMark_eq hmark, hone, htwo, hyes]
    case bay =>
      simp only [bayRecord, capabilityBytes, hone, htwo, hdisc, htemp, hyes, List.append_assoc, List.cons_append,
        List.nil_append]
    case noSession => simp only [sessionRecord, hnone, waitingBytes, List.cons_append, List.nil_append]
    case session =>
      simp only [sessionRecord, hx, waitingBytes, hone, htimer, hyes, List.append_assoc, List.cons_append,
        List.nil_append]
      rfl
    case verify =>
      intro place lim
      have hplace : ∀ r, placeBytes r = place r := by
        intro r
        cases r with
        | none => rfl
        | some r => simp only [placeBytes, htimer, hyes, place]
      have hqueue : queueBytes p = fun b => byte b.val :: disc p.bays[b].disc :=
        funext fun b => congrArg (byte b.val :: ·) (hdisc _)
      simp only [verifyRecord, hplace, hqueue, limitBytes, List.append_assoc, List.cons_append, List.nil_append]
      rfl
    case printer =>
      intro r x
      have hlast : lastLineBytes r.last = match r.last with
          | none => List.replicate 10 0xFF#8
          | some y => le16 (tempWord y.q) ++ le16 y.f ++ le16 y.t0 ++ le16 y.t1 ++ le16 y.t2 := by
        cases r.last <;> rfl
      have hlabel : encByte (r.label.map (·.slot.val)) ++ (encWord (r.label.map (·.length)) ++
          (encTrim (r.label.map (·.trim)) ++ encWord (r.label.map (·.cursor)))) = match r.label with
          | none => [0xFF#8, 0xFF#8, 0xFF#8, 0x80#8, 0xFF#8, 0xFF#8]
          | some y => [byte y.slot.val] ++ le16 y.length ++ [BitVec.ofInt 8 y.trim] ++ le16 y.cursor := by
        cases r.label <;> rfl
      calc printerRecord p pins
          = [byte r.state.code] ++ encId r.disc ++ encByte (r.status.map (·.code)) ++
              (encByte (r.label.map (·.slot.val)) ++ (encWord (r.label.map (·.length)) ++
                (encTrim (r.label.map (·.trim)) ++ encWord (r.label.map (·.cursor))))) ++
              le32 r.ribbon ++ le16 r.strobe ++ [byte r.pace.code] ++
              encByte (r.hot.map fun ms => (ms + 999) / 1000) ++ lastLineBytes r.last ++
              printSettingBytes x ++ yes pins.breakShown ++ yes pins.trayShown := by
            simp only [printerRecord, List.append_assoc]
            rfl
        _ = _ := by
            rw [hlabel, hlast, hdisc, hone, hone]
            simp only [printSettingBytes, List.append_assoc]
            rfl
    case thermal =>
      simp only [thermalRecord, thermalLimitBytes, vector_toList_eq_map, List.flatMap_map, sensorBytes, htemp,
        List.append_assoc]
      rfl
    case entry => simp only [resultBytes, hone, htwo, hyes]
  case codes =>
    exact ⟨rfl, rfl, rfl, rfl, rfl, rfl, rfl, rfl, fun n b => rfl, rfl, rfl, rfl, rfl, rfl, rfl, rfl, rfl, rfl⟩

end Sys2Proof.Machine
end

section
/-!
PROOFS. The leaving of tower reset (R13, R70, R77, R157, R184, R196, R198).
-/

namespace Sys2Proof.Machine

/-! ## A part with nothing to do -/

/-- Judging R61's condition changes one field of the flow. -/
theorem judgeMove_flow (p : Part) : (judgeMove p).flow = { p.flow with moveReady := moveWaits p } := by
  simp only [judgeMove, raiseIf_keeps]

/-- With no wait list, no run list and no session, settling judges only whether a move waits. -/
theorem settle_idle {p : Part} (hwait : p.flow.waitList = []) (hrun : p.runList = [])
    (hsessions : ∀ n : SessionNum, p.engine.sessions[n] = none) :
    settle p = judgeMove { p with flow := { p.flow with ribbonShort := false } } := by
  have hhead : headLabel p = none := by simp only [headLabel, hwait, List.head?_nil]; rfl
  have hgather : ∀ q : Part, q.engine = p.engine → judgeGathering gatheringFuel q = q := by
    intro q hq
    have hnone : (List.finRange 4).find? (prospectLost q) = none := by
      refine List.find?_eq_none.2 fun n _ => ?_
      rw [prospectLost, hq, hsessions n]
      exact Bool.false_ne_true
    rw [gatheringFuel, judgeGathering, hnone]
  have hpick : ∀ q : Part, q.runList = [] → judgePick q = q := by
    intro q hq
    simp only [judgePick, hq, choosePick, ite_self]
  simp only [settle, judgeWait, hhead]
  rw [hpick { p with flow := { p.flow with ribbonShort := false } } hrun,
    hgather { p with flow := { p.flow with ribbonShort := false } } rfl]

/-! ## The census of the tray and discovery -/

/-- The disc that the census finds in the tray. -/
def trayOrphan : Disc := ⟨1, none, .failed, .tray, some .rejectBin, none, none, none, none, none, false, some .orphan⟩

/-- The order that leads it to the reject bin. -/
def orphanOrder : Order := ⟨.printerToReject, 1, .tray, .rejectBin, 0⟩

/-- R70: on a part fresh from reset the census makes one record and one order. -/
theorem trayCensus_flow {p : Part} (h : p.flow = .reset) :
    (trayCensus p).flow.discs = [trayOrphan] ∧ (trayCensus p).flow.queue = [orphanOrder] ∧
      (trayCensus p).flow.waitList = [] := by
  simp [trayCensus, newId, freshId, createDisc, insertDisc, addOrder, judgeMove_flow, modDisc, enqueue, h, Flow.reset,
    trayOrphan, orphanOrder]

/-- R157: the printer takes the disc in. -/
theorem trayCensus_printer {p : Part} (h : p.flow = .reset) :
    (trayCensus p).printer.disc = some 1 ∧ (trayCensus p).printer.status = some .notPrinted := by
  simp [trayCensus, newId, freshId, notPrinted, h, Flow.reset]

theorem trayCensus_keeps (p : Part) :
    (trayCensus p).held = p.held ∧ (trayCensus p).strap = p.strap ∧ (trayCensus p).thermal = p.thermal ∧
      (trayCensus p).bus = p.bus ∧ (trayCensus p).engine = p.engine ∧ (trayCensus p).runList = p.runList ∧
      (trayCensus p).links.map LinkEvents.mask = p.links.map LinkEvents.mask := by
  simp [trayCensus]

/-- Discovery asks for service items and changes nothing else. -/
theorem discover_keeps (p : Part) :
    (discover p).held = p.held ∧ (discover p).strap = p.strap ∧ (discover p).thermal = p.thermal ∧
      (discover p).engine = p.engine ∧ (discover p).runList = p.runList ∧ (discover p).flow = p.flow ∧
      (discover p).printer = p.printer ∧ (discover p).links = p.links := by
  have asks : ∀ (bs : List BayNum) (q : Part),
      let r := bs.foldl (fun p b => ask (.statusRead b false) p) q
      r.held = q.held ∧ r.strap = q.strap ∧ r.thermal = q.thermal ∧ r.engine = q.engine ∧ r.runList = q.runList ∧
        r.flow = q.flow ∧ r.printer = q.printer ∧ r.links = q.links := by
    intro bs
    induction bs with
    | nil => intro q; exact ⟨rfl, rfl, rfl, rfl, rfl, rfl, rfl, rfl⟩
    | cons b bs ih =>
      intro q
      have h := ih (ask (.statusRead b false) q)
      simpa only [List.foldl_cons, ask_keeps] using h
  have h := asks (List.finRange 10) (ask .clearAll p)
  simpa only [discover, ask_keeps] using h

/-- An item that merges with none joins the list (R104). -/
theorem ask_bus {it : Item} {p : Part} (h : mergesWith p it = false) :
    (ask it p).bus = { p.bus with list := p.bus.list ++ [it] } := by
  simp only [ask, h, Bool.false_eq_true, if_false]

/-- Reads of several bays, none of which waits already, join the list in turn (R104). -/
theorem askReads_list (bs : List BayNum) (p : Part) (hturn : p.bus.turn = .none) (hnodup : bs.Nodup)
    (hfresh : ∀ b ∈ bs, p.bus.list.any (Item.reads b) = false) :
    (bs.foldl (fun p b => ask (.statusRead b false) p) p).bus.list =
      p.bus.list ++ bs.map fun b => .statusRead b false := by
  induction bs generalizing p with
  | nil => simp
  | cons b bs ih =>
    obtain ⟨hb, hnodup⟩ := List.nodup_cons.1 hnodup
    have hmerge : mergesWith p (.statusRead b false) = false := by
      simp only [mergesWith, readWaiting, waitingItems, hturn, Turn.rest, List.append_nil]
      exact hfresh b List.mem_cons_self
    have hask := ask_bus hmerge
    rw [List.foldl_cons, ih _ (by rw [hask]; exact hturn) hnodup, hask, List.map_cons]
    · simp
    · intro c hc
      have hne : b ≠ c := fun h => hb (h ▸ hc)
      rw [hask]
      simp [hfresh c (List.mem_cons_of_mem b hc), Item.reads, hne]

/-- R77: what discovery asks for, on a bus fresh from reset. -/
theorem discover_list {p : Part} (h : p.bus = .reset) :
    (discover p).bus.list = .clearAll :: (List.finRange 10).map fun b => .statusRead b false := by
  have hclear : (ask .clearAll p).bus = { Bus.reset with list := [.clearAll] } := by
    simp [ask, mergesWith, h, Bus.reset]
  rw [discover, askReads_list _ _ (by rw [hclear]; rfl) (List.nodup_finRange 10) (by rw [hclear]; simp [Item.reads]),
    hclear]
  rfl

/-! ## Leaving the reset -/

/-- The part as RESET is set and both sensors have been sampled. -/
def sampledPart (strap : Bool) (head ambient : Int) : Part :=
  sampleAmbient ambient (sampleHead head (raise .reset { Part.reset with held := false, strap := strap }))

/-- The part before its conditions are judged. -/
def discoveredPart (strap tray : Bool) (head ambient : Int) : Part :=
  discover (if tray then trayCensus (sampledPart strap head ambient) else sampledPart strap head ambient)

theorem leaveReset_eq (strap tray : Bool) (head ambient : Int) :
    leaveReset strap tray head ambient Part.reset = settle (discoveredPart strap tray head ambient) := rfl

theorem sampledPart_eq (strap : Bool) (head ambient : Int) :
    let p := sampledPart strap head ambient
    p.held = false ∧ p.strap = strap ∧ p.flow = .reset ∧ p.bus = .reset ∧ p.engine = .reset ∧ p.runList = [] ∧
      p.printer = .reset := by
  simp [sampledPart, Part.reset]

theorem sampledPart_thermal (strap : Bool) (head ambient : Int) :
    let y := (sampledPart strap head ambient).thermal
    y.head.reading = some (clampInt (-160) 511 head) ∧ y.head.timer = some 1000 ∧
      y.ambient.reading = some (clampInt (-160) 511 ambient) ∧ y.ambient.timer = some 1000 := by
  simp only [sampledPart, sampleAmbient_eq, sampleHead_eq, raiseIf_keeps, and_self]

/-- RESET is set in every link and stays so, every mask as reset leaves it. -/
theorem sampledPart_links (strap : Bool) (head ambient : Int) :
    EventsStay none (Part.reset.links.map (LinkEvents.set .reset)) (sampledPart strap head ambient).links :=
  sampleAmbient_events _ _ (sampleHead_events _ _ (EventsStay.refl _ _))

theorem discoveredPart_eq (strap tray : Bool) (head ambient : Int) :
    let p := discoveredPart strap tray head ambient
    p.held = false ∧ p.strap = strap ∧ p.thermal = (sampledPart strap head ambient).thermal ∧ p.engine = .reset ∧
      p.runList = [] ∧ p.flow.waitList = [] ∧ p.flow.discs = (if tray then [trayOrphan] else []) ∧
      p.flow.queue = (if tray then [orphanOrder] else []) ∧ p.printer.disc = (if tray then some 1 else none) ∧
      p.printer.status = (if tray then some .notPrinted else none) ∧
      p.bus.list = .clearAll :: (List.finRange 10).map (fun b => .statusRead b false) := by
  obtain ⟨hheld, hstrap, hflow, hbus, hengine, hrun, hprinter⟩ := sampledPart_eq strap head ambient
  cases tray with
  | false =>
    have hlist := discover_list hbus
    simp [discoveredPart, discover_keeps, hheld, hstrap, hengine, hrun, hflow, hprinter, hlist, Flow.reset,
      Printer.reset]
  | true =>
    obtain ⟨hdiscs, hqueue, hwait⟩ := trayCensus_flow hflow
    obtain ⟨hdisc, hstatus⟩ := trayCensus_printer hflow
    have hlist := discover_list ((trayCensus_keeps (sampledPart strap head ambient)).2.2.2.1.trans hbus)
    simp [discoveredPart, discover_keeps, trayCensus_keeps, hheld, hstrap, hengine, hrun, hdiscs, hqueue, hwait, hdisc,
      hstatus, hlist]

theorem discoveredPart_links (strap tray : Bool) (head ambient : Int) :
    EventsStay none (Part.reset.links.map (LinkEvents.set .reset)) (discoveredPart strap tray head ambient).links := by
  have hsampled := sampledPart_links strap head ambient
  cases tray with
  | false => simpa only [discoveredPart, Bool.false_eq_true, if_false, discover_keeps] using hsampled
  | true =>
    simp only [discoveredPart, if_true, discover_keeps, trayCensus, notPrinted_keeps]
    exact addOrder_events _ _ _ _ _ (by simpa only [createDisc_keeps] using hsampled)

/-- Settles O55: a part fresh from reset has nothing to do but what the census and discovery ask for. -/
theorem partLeavesReset : Obligations.PartLeavesReset := by
  unfold Obligations.PartLeavesReset
  intro strap tray broken head ambient low s hpart orphan order
  obtain ⟨hheld, hstrap, hthermal, hengine, hrun, hwait, hdiscs, hqueue, hdisc, hstatus, hlist⟩ :=
    discoveredPart_eq strap tray head ambient
  obtain ⟨hhead, hheadTimer, hambient, hambientTimer⟩ := sampledPart_thermal strap head ambient
  have hexec : exec (.resetRelease strap tray broken head ambient low) s = .next { s with
      pins := { s.pins with strapTied := strap, trayShown := tray, breakShown := broken }
      ports := releasePorts low s.ports
      part := settle (discoveredPart strap tray head ambient) } := by
    have hs : s.part.held = true := by rw [hpart]; rfl
    have hrelease : exec (.resetRelease strap tray broken head ambient low) s =
        execResetRelease strap tray broken head ambient low s := rfl
    rw [hrelease, execResetRelease, if_pos hs, hpart, leaveReset_eq]
  have hidle := settle_idle hwait hrun (by rw [hengine]; intro n; exact Vector.getElem_replicate n.isLt)
  have hlinks : EventsStay none (Part.reset.links.map (LinkEvents.set .reset))
      (settle (discoveredPart strap tray head ambient)).links :=
    settle_events _ (discoveredPart_links strap tray head ambient)
  have hevents : ∀ l : Link, (settle (discoveredPart strap tray head ambient)).links[l].flags.getLsbD 0 = true ∧
      (settle (discoveredPart strap tray head ambient)).links[l].mask = BitVec.allOnes 14 := by
    intro l
    obtain ⟨hflags, hmask⟩ := hlinks l (by simp)
    have hreset : (Part.reset.links.map (LinkEvents.set .reset))[l] = LinkEvents.set .reset .reset := by
      simp [Part.reset]
    rw [hreset] at hflags hmask
    exact ⟨hflags 0 (by decide), hmask⟩
  refine ⟨_, hexec, rfl, rfl, rfl, fun l => ?_, ?_⟩
  · simp [releasePorts]
  simp only [settle_keeps]
  refine ⟨hheld, hstrap, fun l => ⟨(hevents l).1, (attention_iff _ l).2 ⟨?_, 0, by decide, (hevents l).1, ?_⟩⟩, ?_⟩
  · rw [(settle_keeps _).1]
    exact hheld
  · rw [(hevents l).2]
    decide
  rw [hthermal, hidle, judgeMove_flow]
  simp only [judgeMove_keeps]
  exact ⟨hhead, hheadTimer, hambient, hambientTimer, hlist, hdiscs, hqueue, hdisc, hstatus⟩

end Sys2Proof.Machine
end

section
/-!
PROOFS. Disc reports (R31 to R34, R38, R40): the counters of a job, its completion, the end of its drain, and the
references it gives back.
-/

namespace Sys2Proof.Machine

/-! ## The end of a drain (R34, R38) -/

theorem endDrain_inFlight {p : Part} {j : JobNum} (h : 0 < inFlight p j) : endDrain j p = p := by
  have hne : inFlight p j ≠ 0 := Nat.ne_of_gt h
  simp only [endDrain, if_neg hne]
  split <;> rfl

theorem endDrain_halted {p : Part} {j : JobNum} {x : Job} (hx : p.jobs[j] = some x) (h : inFlight p j = 0)
    (hstate : x.state = .halting) : endDrain j p = admitJobs (setJobState j x .halted x.haltReason p) := by
  simp only [endDrain, hx, if_pos h, hstate]

theorem endDrain_cancelled {p : Part} {j : JobNum} {x : Job} (hx : p.jobs[j] = some x) (h : inFlight p j = 0)
    (hstate : x.state = .cancelling) : endDrain j p = finishJob j x .cancelled p := by
  simp only [endDrain, hx, if_pos h, hstate]

theorem endDrain_neither {p : Part} {j : JobNum} {x : Job} (hx : p.jobs[j] = some x) (hhalting : x.state ≠ .halting)
    (hcancelling : x.state ≠ .cancelling) : endDrain j p = p := by
  unfold endDrain
  split
  · rename_i y hy
    rw [hx] at hy
    cases hy
    split
    · split
      · contradiction
      · contradiction
      · rfl
    · rfl
  · rfl

/-! ## The counters (R31 to R33) -/

theorem holdsPlace_iff (st : JobState) : st.holdsPlace = true ↔ st = .running ∨ st = .halting ∨ st = .cancelling := by
  cases st <;> simp [JobState.holdsPlace]

/-- R32: a delivery that completes the target. -/
theorem reported_completes {j : JobNum} {y : Job} {c : CounterChange} {p : Part} (hc : 0 < c.accepted)
    (htarget : y.accepted = y.defn.target) (hstate : y.state = .running ∨ y.state = .halting ∨ y.state = .cancelling) :
    reported j y c p = finishJob j y .done p := by
  have htest : (c.accepted != 0 && decide (y.accepted = y.defn.target) && y.state.holdsPlace) = true := by
    simp [Nat.ne_of_gt hc, htarget, (holdsPlace_iff _).2 hstate]
  rw [reported, if_pos htest]

/-- A report that completes nothing: the reject limit (R33), or the end of a drain. -/
theorem reported_notCompleting {j : JobNum} {y : Job} {c : CounterChange} {p : Part}
    (h : ¬ (0 < c.accepted ∧ y.accepted = y.defn.target ∧
      (y.state = .running ∨ y.state = .halting ∨ y.state = .cancelling))) :
    reported j y c p =
      if 0 < c.rejected ∧ y.state = .running ∧ y.defn.rejectLimit ≠ 0 ∧ y.defn.rejectLimit ≤ y.rejected then
        haltRunning j y .rejectLimit p
      else endDrain j p := by
  have htest : ¬ (c.accepted != 0 && decide (y.accepted = y.defn.target) && y.state.holdsPlace) = true := by
    simpa only [Bool.and_eq_true, bne_iff_ne, decide_eq_true_eq, holdsPlace_iff, and_assoc, Nat.pos_iff_ne_zero] using h
  rw [reported, if_neg htest]
  simp only [Bool.and_eq_true, bne_iff_ne, decide_eq_true_eq, and_assoc, Nat.pos_iff_ne_zero]

/-! ## References given back (R12, R16, R40) -/

/-- Setting a flag twice is setting it once. -/
theorem raise_raise (f : Flag) (p : Part) : raise f (raise f p) = raise f p := by
  have hset : LinkEvents.set f ∘ LinkEvents.set f = LinkEvents.set f := by
    funext e
    simp [LinkEvents.set, BitVec.or_assoc]
  simp only [raise, Vector.map_map, hset]

/-- What a reference given back leaves of a slot (R12, R16). -/
def Slot.released (z : Slot) : Option Slot :=
  if z.state = .retiring ∧ z.refs = 1 then none else some { z with refs := z.refs - 1 }

theorem dropRef_eq {n : SlotNum} {p : Part} {z : Slot} (hz : p.slots[n] = some z) (hrefs : 0 < z.refs) :
    dropRef n p = raiseIf z.released.isNone .image (setSlot n z.released p) := by
  have htest : (decide (z.refs ≤ 1) && decide (z.state = .retiring)) = true ↔ z.state = .retiring ∧ z.refs = 1 := by
    rw [Bool.and_eq_true, decide_eq_true_eq, decide_eq_true_eq, and_comm]
    exact and_congr_right fun _ => ⟨fun h => Nat.le_antisymm h hrefs, fun h => Nat.le_of_eq h⟩
  simp only [dropRef, hz, Slot.released, htest]
  split <;> rfl

/-- The part as a finished job leaves it, before its references are given back. -/
def finishedPart (j : JobNum) (x : Job) (st : JobState) (p : Part) : Part :=
  raise .job { p with
    jobs := put p.jobs j (some { x with state := st, haltReason := none })
    runList := p.runList.filter (· ≠ j) }

theorem finishJob_eq (j : JobNum) (x : Job) (st : JobState) (p : Part) :
    finishJob j x st p = admitJobs (releaseRefs x (finishedPart j x st p)) := rfl

theorem releaseRefs_disc {x : Job} {p : Part} {d : Slot} (hlabel : x.defn.labelSlot = none)
    (hd : p.slots[x.defn.discSlot] = some d) (hrefs : 0 < d.refs) :
    releaseRefs x p = raiseIf d.released.isNone .image (setSlot x.defn.discSlot d.released p) := by
  simp only [releaseRefs, hlabel, dropRef_eq hd hrefs]

/-- A flag raised for each of two things is raised once for both. -/
theorem raiseIf_raiseIf (a b : Bool) (f : Flag) (p : Part) : raiseIf a f (raiseIf b f p) = raiseIf (b || a) f p := by
  cases a <;> cases b <;> simp [raiseIf, raise_raise]

theorem setSlot_raiseIf (n : SlotNum) (z : Option Slot) (b : Bool) (f : Flag) (p : Part) :
    setSlot n z (raiseIf b f p) = raiseIf b f (setSlot n z p) := by
  cases b <;> rfl

theorem releaseRefs_both {x : Job} {p : Part} {n : SlotNum} {d y : Slot} (hlabel : x.defn.labelSlot = some n)
    (hne : n ≠ x.defn.discSlot) (hd : p.slots[x.defn.discSlot] = some d) (hdrefs : 0 < d.refs)
    (hy : p.slots[n] = some y) (hyrefs : 0 < y.refs) :
    releaseRefs x p =
      raiseIf (d.released.isNone || y.released.isNone) .image
        (setSlot n y.released (setSlot x.defn.discSlot d.released p)) := by
  have hget : (raiseIf d.released.isNone .image (setSlot x.defn.discSlot d.released p)).slots[n] = some y := by
    simp only [raiseIf_keeps]
    exact (put_get_other _ _ _ _ hne).trans hy
  simp only [releaseRefs, hlabel, dropRef_eq hd hdrefs]
  rw [dropRef_eq hget hyrefs, setSlot_raiseIf, raiseIf_raiseIf]

/-- Settles O24: a report adds to the counters, and the branches of R31 to R34 follow from what they come to. -/
theorem discReportsAreCounted : Obligations.DiscReportsAreCounted := by
  unfold Obligations.DiscReportsAreCounted
  refine ⟨fun p j x c hx => ?counted, fun p j x d st hlabel hd hrefs => ?disc,
    fun p j x d y n st hlabel hne hd hdrefs hy hyrefs => ?both, fun p j x hx => ?drains⟩
  case counted =>
    intro y q completes limited
    have hreport : report (some j) c p = reported j y c q := report_some hx c
    have hjob : q.jobs[j] = some y := put_get_self ..
    have hflight : inFlight q j = inFlight p j := rfl
    have hdrain : ¬ completes → ¬ limited → report (some j) c p = endDrain j q := fun hc hl => by
      rw [hreport, reported_notCompleting hc]
      exact if_neg hl
    refine ⟨fun ⟨hc, htarget, hstate⟩ => hreport.trans (reported_completes hc htarget hstate), fun hc hl => ?_,
      fun hc hl hflight => (hdrain hc hl).trans (endDrain_inFlight hflight), fun hc hl hnone => ⟨fun hs => ?_,
        fun hs => ?_, fun hs1 hs2 => ?_⟩, rfl⟩
    · rw [hreport, reported_notCompleting hc]
      exact if_pos hl
    · exact (hdrain hc hl).trans (endDrain_halted hjob hnone hs)
    · exact (hdrain hc hl).trans (endDrain_cancelled hjob hnone hs)
    · exact (hdrain hc hl).trans (endDrain_neither hjob hs1 hs2)
  case disc =>
    intro q
    have hfinish : finishJob j x st p =
        admitJobs (raiseIf d.released.isNone .image (setSlot x.defn.discSlot d.released q)) := by
      rw [finishJob_eq, releaseRefs_disc (p := finishedPart j x st p) hlabel hd hrefs]
      rfl
    refine ⟨fun hstate hone => ?_, fun hkept => ?_⟩
    · have hreleased : d.released = none := if_pos ⟨hstate, hone⟩
      rw [hfinish, hreleased]
      rfl
    · have hreleased : d.released = some { d with refs := d.refs - 1 } := if_neg (by
        rintro ⟨hstate, hone⟩
        rcases hkept with h | h
        · exact h hstate
        · omega)
      rw [hfinish, hreleased]
      rfl
  case both =>
    intro left q
    rw [finishJob_eq, releaseRefs_both (p := finishedPart j x st p) hlabel hne hd hdrefs hy hyrefs]
    refine congrArg admitJobs ?_
    have htest : (d.released.isNone || y.released.isNone) = true ↔ left d = none ∨ left y = none := by
      rw [Bool.or_eq_true, Option.isNone_iff_eq_none, Option.isNone_iff_eq_none]
      exact Iff.rfl
    simp only [raiseIf, htest]
    rfl
  case drains =>
    intro becomes
    refine ⟨fun why => rfl, fun hnone hstate => endDrain_halted hx hnone hstate,
      fun hnone hstate => endDrain_cancelled hx hnone hstate, fun h => ?_⟩
    rcases h with h | ⟨h1, h2⟩
    · exact endDrain_inFlight h
    · exact endDrain_neither hx h1 h2

end Sys2Proof.Machine
end

section
/-!
PROOFS. JOB CANCEL (R36, R37, R69, R133, R150): the job's discs, their bays in the engine and in the verifier, and the
end of the cancel.
-/

namespace Sys2Proof.Machine

/-! ## Tables of sessions and of readbacks -/

theorem modSession_some {n : SessionNum} {x : Session} {p : Part} (h : p.engine.sessions[n] = some x)
    (f : Session → Session) : modSession n f p = setSession n (some (f x)) p := by
  simp only [modSession, h]

theorem modSession_none {n : SessionNum} {p : Part} (h : p.engine.sessions[n] = none) (f : Session → Session) :
    modSession n f p = p := by
  simp only [modSession, h]

/-- Bay `b` is a member of session `n` (R113). -/
def Joined (p : Part) (b : BayNum) (n : SessionNum) : Prop :=
  ∃ x, p.engine.sessions[n] = some x ∧ ∃ m ∈ x.members, m.bay = b

theorem sessionOf_test (p : Part) (b : BayNum) (n : SessionNum) :
    (match p.engine.sessions[n] with
      | some s => s.members.any fun m => m.bay = b
      | none => false) = true ↔ Joined p b n := by
  unfold Joined
  cases p.engine.sessions[n] with
  | none => simp
  | some x => simp

theorem sessionOf_some {p : Part} {b : BayNum} {n : SessionNum} (h : Joined p b n)
    (hbefore : ∀ m : SessionNum, m < n → ¬ Joined p b m) : sessionOf p b = some n :=
  lowest_some ((sessionOf_test p b n).2 h) fun m hm =>
    Bool.eq_false_iff.2 (mt (sessionOf_test p b m).1 (hbefore m hm))

theorem sessionOf_notJoined {p : Part} {b : BayNum} (h : ∀ n, ¬ Joined p b n) : sessionOf p b = none :=
  lowest_none fun n => Bool.eq_false_iff.2 (mt (sessionOf_test p b n).1 (h n))

/-- The readback at place `k` reads bay `b`. -/
def Reads (p : Part) (b : BayNum) (k : PlaceNum) : Prop := ∃ r, p.verifier.places[k] = some r ∧ r.bay = b

theorem placeOf_test (p : Part) (b : BayNum) (k : PlaceNum) :
    (match p.verifier.places[k] with
      | some r => decide (r.bay = b)
      | none => false) = true ↔ Reads p b k := by
  unfold Reads
  cases p.verifier.places[k] with
  | none => simp
  | some r => simp

theorem placeOf_some {p : Part} {b : BayNum} {k : PlaceNum} (h : Reads p b k)
    (hbefore : ∀ i : PlaceNum, i < k → ¬ Reads p b i) : placeOf p b = some k :=
  lowest_some ((placeOf_test p b k).2 h) fun i hi =>
    Bool.eq_false_iff.2 (mt (placeOf_test p b i).1 (hbefore i hi))

theorem placeOf_none {p : Part} {b : BayNum} (h : ∀ k, ¬ Reads p b k) : placeOf p b = none :=
  lowest_none fun k => Bool.eq_false_iff.2 (mt (placeOf_test p b k).1 (h k))

/-! ## A CLEAR asked for (R104) -/

theorem ask_merges {it : Item} {p : Part} (h : mergesWith p it = true) : ask it p = p := by
  simp only [ask, h, if_true]

theorem ask_joins {it : Item} {p : Part} (h : mergesWith p it = false) :
    ask it p = { p with bus := { p.bus with list := p.bus.list ++ [it] } } := by
  simp only [ask, h, Bool.false_eq_true, if_false]

theorem mergesWith_clear (p : Part) (b : BayNum) :
    mergesWith p (.clear b) = true ↔ .clear b ∈ p.bus.list ++ p.bus.turn.rest := by
  simp [mergesWith, waitingItems]

theorem ask_clear_waiting {b : BayNum} {p : Part} (h : .clear b ∈ p.bus.list ++ p.bus.turn.rest) :
    ask (.clear b) p = p := ask_merges ((mergesWith_clear p b).2 h)

theorem ask_clear_new {b : BayNum} {p : Part} (h : .clear b ∉ p.bus.list ++ p.bus.turn.rest) :
    ask (.clear b) p = { p with bus := { p.bus with list := p.bus.list ++ [.clear b] } } :=
  ask_joins (Bool.eq_false_iff.2 (mt (mergesWith_clear p b).1 h))

/-! ## The bay of a cancelled disc -/

/-- A bay leaves its session, if it has one (R133). -/
def leaveSession (b : BayNum) (q : Part) : Part :=
  match sessionOf q b with
  | none => q
  | some n =>
    let past := match q.engine.sessions[n] with
      | some s => s.state != .gathering
      | none => false
    askClear past b (removeMember n b q)

theorem cancelInEngine_eq (b : BayNum) (p : Part) :
    cancelInEngine b p =
      leaveSession b { p with engine := { p.engine with waiting := p.engine.waiting.filter (· ≠ b) } } := rfl

theorem leaveSession_none {b : BayNum} {q : Part} (h : ∀ n, ¬ Joined q b n) : leaveSession b q = q := by
  simp only [leaveSession, sessionOf_notJoined h]

/-- A bay that is a member leaves its session, and a CLEAR is asked for past GATHERING. -/
theorem leaveSession_some {b : BayNum} {q : Part} {n : SessionNum} {x : Session} (hjoined : Joined q b n)
    (hbefore : ∀ m : SessionNum, m < n → ¬ Joined q b m) (hx : q.engine.sessions[n] = some x) :
    leaveSession b q =
      askClear (x.state != .gathering) b
        (setSession n (some { x with members := x.members.filter fun m => m.bay ≠ b }) q) := by
  simp only [leaveSession, sessionOf_some hjoined hbefore, hx, removeMember, modSession_some hx]

/-- A bay leaves the readback place that reads it, if there is one (R150). -/
def leaveReadback (b : BayNum) (q : Part) : Part :=
  match placeOf q b with
  | none => q
  | some k =>
    match q.verifier.places[k] with
    | some r => setPlace k none (askClear r.sent b (busForgetPlace k q))
    | none => q

theorem cancelInVerifier_eq (b : BayNum) (p : Part) :
    cancelInVerifier b p =
      leaveReadback b { p with verifier := { p.verifier with queue := p.verifier.queue.filter (· ≠ b) } } := rfl

theorem leaveReadback_none {b : BayNum} {q : Part} (h : ∀ k, ¬ Reads q b k) : leaveReadback b q = q := by
  simp only [leaveReadback, placeOf_none h]

/-- A bay that is read leaves its place, and a CLEAR is asked for if its READBACK was sent. -/
theorem leaveReadback_some {b : BayNum} {q : Part} {k : PlaceNum} {r : Readback} (hreads : Reads q b k)
    (hbefore : ∀ i : PlaceNum, i < k → ¬ Reads q b i) (hr : q.verifier.places[k] = some r) :
    leaveReadback b q =
      { askClear r.sent b (busForgetPlace k q) with
        verifier := { q.verifier with places := put q.verifier.places k none } } := by
  have hkeeps : (askClear r.sent b (busForgetPlace k q)).verifier = q.verifier := by
    simp only [askClear_keeps, busForgetPlace_keeps]
  simp only [leaveReadback, placeOf_some hreads hbefore, hr, setPlace, hkeeps]

/-! ## The discs of a cancelled job (R37, R69) -/

theorem cancelDisc_jobs (d : Disc) (p : Part) : (cancelDisc d p).jobs = p.jobs := by
  have hengine : ∀ b (q : Part), (cancelInEngine b q).jobs = q.jobs := fun b q => by
    unfold cancelInEngine
    dsimp only
    split <;> simp
  have hverifier : ∀ b (q : Part), (cancelInVerifier b q).jobs = q.jobs := fun b q => by
    unfold cancelInVerifier
    dsimp only
    split
    · rfl
    · split <;> simp
  have hprint : (cancelPrintWait d p).jobs = p.jobs := by
    unfold cancelPrintWait
    split
    · simp
    · split <;> simp
  unfold cancelDisc
  split <;> simp [hengine, hverifier, hprint]

/-- What each step of a fold leaves as it was, the fold leaves. -/
theorem foldl_jobs {α : Type} (f : Part → α → Part) (h : ∀ p a, (f p a).jobs = p.jobs) (as : List α) (p : Part) :
    (as.foldl f p).jobs = p.jobs := by
  induction as generalizing p with
  | nil => rfl
  | cons a as ih => exact (ih _).trans (h p a)

/-- The part as a cancel leaves it before its end is judged (R36, R37). -/
def cancelledPart (j : JobNum) (x : Job) (p : Part) : Part :=
  let q := withdrawPickOf j (setJobState j x .cancelling none p)
  startReadbacks (reapAll ((discsOf q j).foldl (fun r d => cancelDisc d r) q))

/-- The sessions are reaped in order of their numbers (log entry 28). -/
theorem reapAll_eq (p : Part) : reapAll p = reap 3 (reap 2 (reap 1 (reap 0 p))) := rfl

theorem cancelAdmitted_eq (j : JobNum) (x : Job) (p : Part) :
    cancelAdmitted j x p = endDrain j (cancelledPart j x p) := rfl

theorem cancelledPart_job (j : JobNum) (x : Job) (p : Part) :
    (cancelledPart j x p).jobs[j] = some { x with state := .cancelling, haltReason := none } := by
  have hjobs : (cancelledPart j x p).jobs = (setJobState j x .cancelling none p).jobs := by
    simp only [cancelledPart, reapAll, startReadbacks_keeps]
    rw [foldl_jobs _ fun q n => (reap_keeps n q).2.2.2.2.1, foldl_jobs _ fun q d => cancelDisc_jobs d q]
    simp only [withdrawPickOf_keeps]
  rw [hjobs]
  exact put_get_self ..

theorem setJobState_job (j : JobNum) (x : Job) (st : JobState) (w : Option HaltReason) (p : Part) :
    (setJobState j x st w p).jobs[j] = some { x with state := st, haltReason := w } := put_get_self ..

/-- A job that is finished ends in the state given. -/
theorem finishJob_job (j : JobNum) (x : Job) {st : JobState} (hst : st ≠ .queued) (p : Part) :
    (finishJob j x st p).jobs[j] = some { x with state := st, haltReason := none } := by
  refine admitJobs_notQueued ?_ hst
  simp only [releaseRefs_keeps]
  exact put_get_self ..

/-- What a cancel of an admitted job leaves: CANCELLING with discs in flight, CANCELLED with none (R36, R38). -/
theorem cancelAdmitted_job (j : JobNum) (x : Job) (p : Part) :
    ∃ y, (cancelAdmitted j x p).jobs[j] = some y ∧
      (0 < inFlight (cancelAdmitted j x p) j → y.state = .cancelling) ∧
      (inFlight (cancelAdmitted j x p) j = 0 → y.state = .cancelled) := by
  have hjob := cancelledPart_job j x p
  have hflight : inFlight (cancelAdmitted j x p) j = inFlight (cancelledPart j x p) j := by
    simp only [cancelAdmitted_eq, inFlight, endDrain_keeps]
  rw [hflight, cancelAdmitted_eq]
  rcases Nat.eq_zero_or_pos (inFlight (cancelledPart j x p) j) with hnone | hsome
  · rw [endDrain_cancelled hjob hnone rfl]
    exact ⟨_, finishJob_job _ _ (by decide) _, fun h => absurd hnone (Nat.ne_of_gt h), fun _ => rfl⟩
  · rw [endDrain_inFlight hsome]
    exact ⟨_, hjob, fun _ => rfl, fun h => absurd h (Nat.ne_of_gt hsome)⟩

theorem cancelJob_state {j : JobNum} {x : Job} {p : Part}
    (h : x.state = .cancelling ∨ x.state = .done ∨ x.state = .cancelled) :
    cancelJob j x p = (.refused .state [], p) := by
  rcases h with h | h | h <;> simp only [cancelJob, h, refuse_eq]

/-- Settles O23: the states of the job, the discs one by one, and what becomes of their bays. -/
theorem jobCancelDealsWithDiscs : Obligations.JobCancelDealsWithDiscs := by
  unfold Obligations.JobCancelDealsWithDiscs
  refine ⟨fun l j x fill s hopen hx => ?states, fun j x p hx => ?order, fun d p hstate => ?left,
    fun d b p hpos => ?discs, fun b p => ?engine, fun b p => ?verifier⟩
  case states =>
    intro cancels
    have cancel : ∀ {r p}, cancelJob j x s.part = (r, p) → cancels r p := fun h => jobCommand_completes hopen hx rfl h
    have finished := finishJob_job j x (st := .cancelled) (by decide) s.part
    refine ⟨fun hstate => cancel ?_, fun hstate => cancel ?_, fun hstate => ?_,
      fun hstate => cancel (cancelJob_state hstate)⟩
    · simp only [cancelJob, hstate, jobStateResponse_eq (setJobState_job ..)]
      rfl
    · rcases hstate with hstate | hstate <;>
        simp only [cancelJob, hstate, jobStateResponse_eq finished] <;> rfl
    · intro q
      obtain ⟨y, hy, hcancelling, hcancelled⟩ := cancelAdmitted_job j x s.part
      have hbody : cancelJob j x s.part = (.done [byte y.state.code], settle q) := by
        rcases hstate with hstate | hstate <;> simp only [cancelJob, hstate, jobStateResponse_eq hy, q]
      refine ⟨y, hy, fun h => ⟨hcancelling h, cancel ?_⟩, fun h => ⟨hcancelled h, cancel ?_⟩⟩
      · rw [hbody, hcancelling h]
        rfl
      · rw [hbody, hcancelled h]
        rfl
  case order =>
    intro q dealt ended
    have hended : ended = cancelledPart j x p := congrArg startReadbacks (reapAll_eq dealt).symm
    rw [hended]
    exact ⟨cancelledPart_job j x p, cancelAdmitted_eq j x p⟩
  case left =>
    unfold cancelDisc
    split <;> simp_all
  case discs =>
    refine ⟨fun h => ?_, fun h => ?_, fun h => ?_, fun h => ⟨fun hnone => ?_, fun o ho => ⟨fun hissued => ?_,
      fun hissued => ?_⟩⟩⟩
    · simp only [cancelDisc, hpos, h]
    · rcases h with h | h <;> simp only [cancelDisc, hpos, h]
    · rcases h with h | h <;> simp only [cancelDisc, hpos, h]
    · simp only [cancelDisc, hpos, h, cancelPrintWait, hnone]
    · simp only [cancelDisc, hpos, h, cancelPrintWait, ho, isIssued, hissued, decide_true, if_true]
    · simp only [cancelDisc, hpos, h, cancelPrintWait, ho, isIssued, hissued, decide_false, Bool.false_eq_true,
        if_false]
  case engine =>
    intro q joined
    rw [cancelInEngine_eq]
    refine ⟨fun h => leaveSession_none (q := q) h, fun n x hjoined hbefore hx => ?_⟩
    intro left
    have hleaves : leaveSession b q = askClear (x.state != .gathering) b left :=
      leaveSession_some hjoined hbefore hx
    refine ⟨fun h => ?_, fun hstate hnew => ?_⟩
    · rw [hleaves]
      rcases h with hstate | hwaits
      · simp only [hstate, askClear, bne_self_eq_false, Bool.false_eq_true, if_false]
      · simp only [askClear, ask_clear_waiting (p := left) hwaits, ite_self]
    · have hasks : (x.state != .gathering) = true := by simpa using hstate
      rw [hleaves, askClear, if_pos hasks, ask_clear_new (p := left) hnew]
  case verifier =>
    intro q reads
    rw [cancelInVerifier_eq]
    refine ⟨fun h => leaveReadback_none (q := q) h, fun k r hreads hbefore hr => ?_⟩
    intro gone left
    have hleaves : leaveReadback b q = { askClear r.sent b gone with
        verifier := { q.verifier with places := put p.verifier.places k none } } :=
      leaveReadback_some hreads hbefore hr
    refine ⟨fun h => ?_, fun hsent hnew => ?_⟩
    · rw [hleaves]
      rcases h with hsent | hwaits
      · simp only [hsent, askClear, Bool.false_eq_true, if_false]
        rfl
      · simp only [askClear, ask_clear_waiting hwaits, ite_self]
        rfl
    · rw [hleaves, askClear, if_pos hsent, ask_clear_new hnew]

end Sys2Proof.Machine
end

section
/-!
PROOFS. MOVE NEXT (R60, R61), and the reports on flow, spindles and bins with DISC READ (R48 to R50, R71).
-/

namespace Sys2Proof.Machine

/-! ## MOVE NEXT -/

/-- R60: what holds an order back. -/
theorem eligible_iff (p : Part) (o : Order) :
    eligible p o = true ↔ p.flow.held = false ∧ (o.target = .acceptBin → p.flow.acceptFull = false) ∧
      (o.target = .rejectBin → p.flow.rejectFull = false) ∧
      (o.kind = .pick → p.thermal.ambient.condition ≠ .critical) := by
  simp only [eligible, ambientCritical, Bool.and_eq_true, Bool.not_eq_true', Bool.and_eq_false_iff,
    decide_eq_false_iff_not, and_assoc]
  simp only [← imp_iff_not_or]

/-- The first order of the queue that nothing holds back. -/
theorem firstEligible_some {p : Part} {before after : List Order} {o : Order} (hq : p.flow.queue = before ++ o :: after)
    (ho : eligible p o = true) (hbefore : ∀ x ∈ before, ¬ eligible p x = true) : firstEligible p = some o :=
  List.find?_eq_some_iff_append.2 ⟨ho, before, after, hq, fun x hx => by simpa using hbefore x hx⟩

theorem firstEligible_none {p : Part} (h : ∀ o ∈ p.flow.queue, ¬ eligible p o = true) : firstEligible p = none :=
  List.find?_eq_none.2 h

/-- Settles O25: the issued order again, or the first that is eligible, or no move. -/
theorem moveNextIssues : Obligations.MoveNextIssues := by
  unfold Obligations.MoveNextIssues
  intro l fill s hopen f held order free
  have next : ∀ {r p}, nextMove s.part = (r, p) → Completes .moveNext l [] fill s r p :=
    fun h => noPayloadCommand_completes hopen rfl h
  have hfree : ∀ o, eligible s.part o = true ↔ free o := eligible_iff s.part
  refine ⟨fun o ho => next ?_, fun before o after hnone hq ho hbefore => next ?_, fun hnone hall => next ?_⟩
  · simp only [nextMove, show s.part.flow.issued = some o from ho]
    rfl
  · have hfirst : firstEligible s.part = some o :=
      firstEligible_some hq ((hfree o).2 ho) fun x hx => mt (hfree x).1 (hbefore x hx)
    simp only [nextMove, show s.part.flow.issued = none from hnone, hfirst]
    rfl
  · have hfirst : firstEligible s.part = none := firstEligible_none fun o ho => mt (hfree o).1 (hall o ho)
    simp only [nextMove, show s.part.flow.issued = none from hnone, hfirst]
    rfl

/-! ## Spindles -/

theorem mediaOf_code (m : Media) : mediaOf (byte m.code).toNat = some m := by
  cases m <;> rfl

/-- A spindle report with the spindle's media leads to its record (R48). -/
theorem spindleReportBody_none (n : SpindleNum) (any : Byte) (p : Part) :
    spindleReportBody [byte n.val, 0, any] p = reportSpindle n none p := by
  simp only [spindleReportBody, numbered_byte (by decide) n]
  rfl

theorem spindleReportBody_some (n : SpindleNum) (m : Media) (p : Part) :
    spindleReportBody [byte n.val, 1, byte m.code] p = reportSpindle n (some m) p := by
  simp only [spindleReportBody, numbered_byte (by decide) n, mediaOf_code]
  rfl

theorem spindleReportBody_range {n st m : Byte} (h : 1 < n.toNat ∨ 1 < st.toNat ∨ (st = 1#8 ∧ 2 < m.toNat))
    (p : Part) : spindleReportBody [n, st, m] p = (.refused .range [], p) := by
  cases hn : numbered 2 n with
  | none => simp only [spindleReportBody, hn, rangeError, refuse_eq]
  | some k =>
    have hlow : ¬ 1 < n.toNat := fun hgreat => by rw [numbered_none hgreat] at hn; cases hn
    have hrest : 1 < st.toNat ∨ (st = 1#8 ∧ 2 < m.toNat) := h.resolve_left hlow
    rcases hrest with hst | ⟨rfl, hm⟩
    · have h0 : st ≠ 0#8 := by rintro rfl; revert hst; decide
      have h1 : st ≠ 1#8 := by rintro rfl; revert hst; decide
      simp only [spindleReportBody, hn, if_neg h0, if_neg h1, rangeError, refuse_eq]
    · have h0 : (1#8 : Byte) ≠ 0#8 := by decide
      simp only [spindleReportBody, hn, if_neg h0, if_true, mediaOf_none hm, rangeError, refuse_eq]

/-- R48: an unissued pick whose blanks a report takes away. -/
theorem strandedPick_some {n : SpindleNum} {q : Part} {o : Order} {j : JobNum} {x : Job}
    (ho : pickOrder q = some o) (hissued : q.flow.issued ≠ some o) (hsource : o.source = .spindle n)
    (hj : jobOfOrder q o = some j) (hx : q.jobs[j] = some x) (hm : q.flow.spindles[n] ≠ some x.defn.media) :
    strandedPick n q = some o := by
  have hmedia : mediaOfOrder q o = some x.defn.media := by
    simp only [mediaOfOrder, hj, Option.bind_some, hx, Option.map_some]
  simp only [strandedPick, ho]
  refine if_pos ?_
  simp only [isIssued, hmedia, Bool.and_eq_true, Bool.not_eq_true', decide_eq_false_iff_not, decide_eq_true_eq]
  exact ⟨⟨hissued, hsource⟩, hm⟩

theorem strandedPick_none {n : SpindleNum} {q : Part}
    (h : ∀ o, pickOrder q = some o → q.flow.issued = some o ∨ o.source ≠ .spindle n ∨
      ∃ j x, jobOfOrder q o = some j ∧ q.jobs[j] = some x ∧ q.flow.spindles[n] = some x.defn.media) :
    strandedPick n q = none := by
  unfold strandedPick
  split
  · rename_i o ho
    refine if_neg ?_
    simp only [isIssued, Bool.and_eq_true, Bool.not_eq_true', decide_eq_false_iff_not, decide_eq_true_eq]
    rintro ⟨⟨hissued, hsource⟩, hne⟩
    rcases h o ho with h | h | ⟨j, x, hj, hx, hm⟩
    · exact absurd h hissued
    · exact absurd hsource h
    · have hmedia : mediaOfOrder q o = some x.defn.media := by
        simp only [mediaOfOrder, hj, Option.bind_some, hx, Option.map_some]
      exact hne (hm.trans hmedia.symm)
  · rfl

/-! ## Bins and disc records -/

theorem binReportBody_range {b st : Byte} (h : 1 < b.toNat ∨ 1 < st.toNat) (p : Part) :
    binReportBody [b, st] p = (.refused .range [], p) := by
  have hnot : ¬ (b.toNat ≤ 1 ∧ st.toNat ≤ 1) := by omega
  simp only [binReportBody, if_neg hnot, rangeError, refuse_eq]

theorem discReadBody_le16 {id : Nat} (h0 : 0 < id) (hid : id < 65536) (p : Part) :
    discReadBody (le16 id) p = match findDisc p id with
      | some d => (.done (discRecord p d), p)
      | none => (.refused .noDisc [], p) := by
  simp only [discReadBody, le16, discIdOf_le16 (Nat.ne_of_gt h0) hid]
  rfl

/-- Settles O30: each report writes one field of the flow, and DISC READ reads the table. -/
theorem flowReportsAndDiscRead : Obligations.FlowReportsAndDiscRead := by
  unfold Obligations.FlowReportsAndDiscRead
  intro l fill s hopen p flow
  have resume : ∀ {r q}, resumeFlow p = (r, q) → Completes .flowResume l [] fill s r q :=
    fun h => noPayloadCommand_completes hopen rfl h
  have read : ∀ {i0 i1 r q}, discReadBody [i0, i1] p = (r, q) → Completes .discRead l [i0, i1] fill s r q :=
    fun h => linkCommand_completes hopen (by simp) rfl h
  have reported : ∀ {n st m r q}, spindleReportBody [n, st, m] p = (r, q) →
      Completes .spindleReport l [n, st, m] fill s r q := fun h => linkCommand_completes hopen (by simp) rfl h
  refine ⟨fun hheld => resume ?_, fun hheld => resume ?_, fun full => ?bins, fun b st h => ?_,
    fun n m any => ?spindles, fun n st m h => reported (spindleReportBody_range h p),
    fun id h0 hid => ⟨fun d hd => read ?_, fun hnone => read ?_⟩, read rfl⟩
  · simp only [resumeFlow, show p.flow.held = true from hheld, if_true]
    rfl
  · simp only [resumeFlow, show p.flow.held = false from hheld, Bool.false_eq_true, if_false, refuse_eq]
  case bins =>
    have bin : ∀ {b st q}, binReportBody [b, st] p = (.done [], q) →
        Completes .binReport l [b, st] fill s (.done []) q := fun h => linkCommand_completes hopen (by simp) rfl h
    cases full
    · exact ⟨bin rfl, bin rfl⟩
    · exact ⟨bin rfl, bin rfl⟩
  · exact linkCommand_completes hopen (by simp) rfl (binReportBody_range h p)
  case spindles =>
    intro q reports
    have hget : q.flow.spindles[n] = m := put_get_self ..
    have hreport : reportSpindle n m p = match strandedPick n q with
        | some o => (.done [], settle (withdrawAndReport o q))
        | none => (.done [], settle q) := rfl
    have hreports : ∀ {r}, reportSpindle n m p = (.done [], r) → reports r := by
      intro r h
      cases m with
      | none => exact reported ((spindleReportBody_none n any p).trans h)
      | some m => exact reported ((spindleReportBody_some n m p).trans h)
    refine ⟨fun o j x ho hissued hsource hj hx hm => hreports ?_, fun h => hreports ?_⟩
    · have hstranded : strandedPick n q = some o :=
        strandedPick_some (q := q) ho hissued hsource hj hx (by rwa [hget])
      have hwithdrawn : withdrawAndReport o q = report (some j) ⟨0, 0, 0⟩ (withdraw o q) := by
        simp only [withdrawAndReport, show jobOfOrder q o = some j from hj]
      rw [hreport, hstranded]
      exact congrArg (fun r => (_, settle r)) hwithdrawn
    · have hstranded : strandedPick n q = none := strandedPick_none (q := q) (by rw [hget]; exact h)
      rw [hreport, hstranded]
  · exact (discReadBody_le16 h0 hid p).trans (by rw [hd])
  · exact (discReadBody_le16 h0 hid p).trans (by rw [hnone])

end Sys2Proof.Machine
end

section
/-!
PROOFS. Moves reported done and failed (R62 to R67), with what frees a bay and the tray (R76, R172).
-/

namespace Sys2Proof.Machine

/-! ## The disc table -/

theorem findDisc_id {p : Part} {id : Nat} {d : Disc} (h : findDisc p id = some d) : d.id = id :=
  by simpa using List.find?_some h

theorem findDisc_mem {p : Part} {id : Nat} {d : Disc} (h : findDisc p id = some d) : d ∈ p.flow.discs :=
  List.mem_of_find?_eq_some h

/-- The search after the record of that id was changed. -/
theorem findDisc_modDisc {p : Part} {id : Nat} {d : Disc} {f : Disc → Disc} (h : findDisc p id = some d)
    (hf : ∀ x, (f x).id = x.id) : findDisc (modDisc id f p) id = some (f d) := by
  have htest : ((fun x : Disc => decide (x.id = id)) ∘ fun x => if x.id = id then f x else x) =
      fun x : Disc => decide (x.id = id) := by
    funext x
    by_cases hx : x.id = id <;> simp [hx, hf]
  have hfind : p.flow.discs.find? (fun x => x.id = id) = some d := h
  simp only [findDisc, modDisc, List.find?_map, htest, hfind, Option.map_some, if_pos (findDisc_id h)]

theorem modDisc_modDisc {id : Nat} {f g : Disc → Disc} (hf : ∀ x, (f x).id = x.id) (p : Part) :
    modDisc id g (modDisc id f p) = modDisc id (fun x => g (f x)) p := by
  have hcomp : ∀ x : Disc, ((fun x => if x.id = id then g x else x) ∘ fun x => if x.id = id then f x else x) x =
      if x.id = id then g (f x) else x := by
    intro x
    by_cases hx : x.id = id <;> simp [hx, hf]
  simp only [modDisc, List.map_map, funext hcomp]

/-- A job with a disc in the table has a disc in flight (R21). -/
theorem inFlight_pos {p : Part} {d : Disc} {j : JobNum} (hd : d ∈ p.flow.discs) (hj : d.job = some j) :
    0 < inFlight p j :=
  List.length_pos_of_mem (List.mem_filter.2 ⟨hd, by simpa using hj⟩)

/-- A report that neither delivers nor rejects, with discs in flight, changes no more than the counters (R31). -/
theorem report_picked_flow {p : Part} {j : JobNum} (h : 0 < inFlight p j) (n : Nat) :
    (report (some j) ⟨n, 0, 0⟩ p).flow = p.flow := by
  cases hx : p.jobs[j] with
  | none => rw [report_none (by rintro _ ⟨⟩; exact hx)]
  | some x =>
    rw [report_some hx, reported_notCompleting (by simp), if_neg (by simp), endDrain_inFlight (by exact h)]
    rfl

/-! ## Freeing a bay and the tray -/

theorem freeBay_modDisc (b : BayNum) (id : Nat) (f : Disc → Disc) (p : Part) :
    modDisc id f (freeBay b p) = freeBay b (modDisc id f p) := by
  simp only [freeBay, modDisc_keeps]
  split
  · rfl
  · rfl

/-- The record of a bay that its disc has left (R76). -/
def Bay.freed (x : Bay) : Bay := { x with state := if x.present then .empty else x.state, disc := none }

theorem freeBay_notPending {b : BayNum} {p : Part} (h : p.bays[b].disablePending = false) :
    freeBay b p = { p with bays := put p.bays b p.bays[b].freed } := by
  simp only [freeBay, h, Bool.false_eq_true, if_false]
  rfl

theorem freeBay_pending {b : BayNum} {p : Part} (h : p.bays[b].disablePending = true) :
    freeBay b p = raise .bay
      { p with bays := put p.bays b { p.bays[b].freed with enabled := false, disablePending := false } } := by
  simp only [freeBay, h, if_true]
  rfl

/-! ## The end of a move -/

theorem dropOrder_issued {o : Order} {p : Part} (h : p.flow.issued = some o) :
    dropOrder o p = { p with flow := { p.flow with queue := p.flow.queue.filter (· ≠ o), issued := none } } := by
  simp only [dropOrder, h, if_true]

theorem judgeMove_findDisc {p : Part} {id : Nat} : findDisc (judgeMove p) id = findDisc p id := by
  simp only [findDisc, judgeMove_flow]

theorem moveKindOf_code (k : MoveKind) : moveKindOf (byte k.code).toNat = some k := by
  cases k <;> rfl

/-- A MOVE DONE of the issued order completes it (R62). -/
theorem moveDone_completes {l : Link} {o : Order} {d : Disc} {fill : Nat} {s : State} {r : Part} (hopen : LinkOpen l s)
    (ho : s.part.flow.issued = some o) (h0 : 0 < o.disc) (hid : o.disc < 65536)
    (hd : findDisc s.part o.disc = some d)
    (hr : settle (moveArrives o d (judgeMove { s.part with
      flow := { s.part.flow with queue := s.part.flow.queue.filter (· ≠ o), issued := none } })) = r) :
    Completes .moveDone l (le16 o.disc ++ [byte o.kind.code]) fill s (.done []) r := by
  refine linkCommand_completes hopen (by simp [le16]) rfl ?_
  have hbody : moveDoneBody (le16 o.disc ++ [byte o.kind.code]) s.part = moveDone o.disc o.kind s.part := by
    simp only [moveDoneBody, le16, List.cons_append, List.nil_append, discIdOf_le16 (Nat.ne_of_gt h0) hid,
      moveKindOf_code]
  rw [hbody]
  simp only [moveDone, ho, and_self, if_true, completeMove, hd, ← hr, dropOrder_issued ho]
  rfl

/-! ## The burn set engine is told of a loaded disc (R116, R117) -/

theorem gatheringOf_test (p : Part) (j : JobNum) (n : SessionNum) :
    (match p.engine.sessions[n] with
      | some s => decide (s.state = .gathering) && decide (s.job = j)
      | none => false) = true ↔
      ∃ y, p.engine.sessions[n] = some y ∧ y.state = .gathering ∧ y.job = j := by
  cases p.engine.sessions[n] with
  | none => simp
  | some y => simp

theorem sessionOf_isSome {p : Part} {b : BayNum} : (sessionOf p b).isSome = true ↔ ∃ n, Joined p b n := by
  constructor
  · intro h
    obtain ⟨n, hn⟩ := Option.isSome_iff_exists.1 h
    exact ⟨n, (sessionOf_test p b n).1 (lowest_meets hn)⟩
  · intro h
    by_contra hnone
    obtain ⟨n, hn⟩ := h
    have hall := List.find?_eq_none.1 (Option.not_isSome_iff_eq_none.1 hnone) n (List.mem_finRange n)
    exact hall ((sessionOf_test p b n).2 hn)

/-- The session has reached its set size, or its gather timer stands at 0 (R116, R118). -/
def Full (p : Part) (y : Session) : Prop :=
  (∃ x, p.jobs[y.job] = some x ∧ y.members.length = x.defn.setSize) ∨ y.gather = some 0

theorem judgeFull_test (p : Part) (y : Session) :
    ((match p.jobs[y.job] with
      | some x => decide (y.members.length = x.defn.setSize)
      | none => false) || decide (y.gather = some 0)) = true ↔ Full p y := by
  unfold Full
  cases p.jobs[y.job] with
  | none => simp
  | some x => simp

theorem judgeFull_full {p : Part} {n : SessionNum} {y : Session} (hy : p.engine.sessions[n] = some y)
    (h : Full p y) : judgeFull n p = leaveGathering n p := by
  simp only [judgeFull, hy]
  exact if_pos ((judgeFull_test p y).2 h)

theorem judgeFull_notFull {p : Part} {n : SessionNum} {y : Session} (hy : p.engine.sessions[n] = some y)
    (h : ¬ Full p y) : judgeFull n p = p := by
  simp only [judgeFull, hy]
  exact if_neg (mt (judgeFull_test p y).1 h)

theorem placeLoaded_stays {p : Part} {b : BayNum} {j : JobNum} (h : (∃ n, Joined p b n) ∨ b ∈ p.engine.waiting) :
    placeLoaded b j p = p := by
  refine if_pos ?_
  rw [Bool.or_eq_true, sessionOf_isSome, List.contains_iff_mem]
  exact h

theorem placeLoaded_new {p : Part} {b : BayNum} {j : JobNum} (hmember : ¬ ∃ n, Joined p b n)
    (hwaiting : b ∉ p.engine.waiting) :
    placeLoaded b j p = match placeIn p j b with
      | some (n, q) => if (judgeFull n q).engine.sessions[n].isNone then
          placeWaiting (judgeFull n q).engine.waiting.length (judgeFull n q) else judgeFull n q
      | none => { p with engine := { p.engine with waiting := p.engine.waiting ++ [b] } } := by
  refine if_neg ?_
  rw [Bool.or_eq_true, sessionOf_isSome, List.contains_iff_mem]
  exact not_or.2 ⟨hmember, hwaiting⟩

/-- Settles O26: a pick reported done is the end of a move followed by the placing of R116. -/
theorem pickReportedDone : Obligations.PickReportedDone := by
  unfold Obligations.PickReportedDone
  refine ⟨?_, ?_, ?_, ?_⟩
  · intro l o d j b fill s hopen ho hpick htarget h0 hid hd hj flow bay q loaded counted completes
    have hfound : findDisc q o.disc = some d := judgeMove_findDisc.trans hd
    have hbays : q.bays = s.part.bays := by simp only [q, judgeMove_keeps]
    have hcounted : counted = report (some j) ⟨1, 0, 0⟩ (loadDisc o.disc b q) := by
      have hget : q.bays[b] = s.part.bays[b] := by rw [hbays]
      simp only [loadDisc, modBay, modDisc_keeps, hget]
      rfl
    have hloaded : findDisc (loadDisc o.disc b q) o.disc = some (loaded d) := findDisc_modDisc hfound fun _ => rfl
    have hflight : 0 < inFlight (loadDisc o.disc b q) j := inFlight_pos (findDisc_mem hloaded) hj
    have harrives : moveArrives o d q = afterPick o.disc b j counted := by
      simp only [moveArrives, htarget, pickDone, hj, findDisc_id hd, hcounted]
    refine ⟨fun hnot => moveDone_completes hopen ho h0 hid hd ?_,
      fun x hx hst => moveDone_completes hopen ho h0 hid hd ?_⟩
    · refine congrArg settle (harrives.trans (if_neg ?_))
      unfold isCancelling
      cases hx : counted.jobs[j] with
      | none => simp
      | some x => simpa using hnot x hx
    · refine congrArg settle (harrives.trans ?_)
      have hcancelling : isCancelling counted j = true := by simp only [isCancelling, hx, hst, decide_true]
      have hcountedDisc : findDisc counted o.disc = some (loaded d) := by
        rw [findDisc, hcounted, report_picked_flow hflight]
        exact hloaded
      simp only [afterPick, hcancelling, if_true, hcountedDisc]
  · intro p b j gathers holds
    refine ⟨fun n y hgathers hbefore hy => ?_, fun hnone => ⟨fun n x z hfree hbefore hx hz => ?_, fun hfull => ?_⟩⟩
    · have hgathering : gatheringOf p j = some n :=
        lowest_some ((gatheringOf_test p j n).2 hgathers) fun m hm =>
          Bool.eq_false_iff.2 (mt (gatheringOf_test p j m).1 (hbefore m hm))
      simp only [placeIn, hgathering, modSession_some hy]
      rfl
    · have hgathering : gatheringOf p j = none :=
        lowest_none fun m => Bool.eq_false_iff.2 (mt (gatheringOf_test p j m).1 (hnone m))
      have hsession : freeSession p = some n := lowest_free hfree hbefore
      simp only [placeIn, hgathering, hsession, hx, newSession, hz]
      rfl
    · have hgathering : gatheringOf p j = none :=
        lowest_none fun m => Bool.eq_false_iff.2 (mt (gatheringOf_test p j m).1 (hnone m))
      have hsession : freeSession p = none :=
        lowest_none fun m => Option.isNone_eq_false_iff.2 (Option.isSome_iff_ne_none.2 (hfull m))
      simp only [placeIn, hgathering, hsession]
  · intro p b j member
    refine ⟨placeLoaded_stays, fun hmember hwaiting =>
      ⟨fun hnone => ?_, fun n q hq => ⟨fun hended => ?_, fun hlives => ?_⟩⟩⟩
    · rw [placeLoaded_new hmember hwaiting, hnone]
    · rw [placeLoaded_new hmember hwaiting, hq]
      exact if_pos (Option.isNone_iff_eq_none.2 hended)
    · rw [placeLoaded_new hmember hwaiting, hq]
      exact if_neg (mt Option.isNone_iff_eq_none.1 hlives)
  · exact fun p n y hy => ⟨judgeFull_full hy, judgeFull_notFull hy⟩

end Sys2Proof.Machine
end

section
/-!
PROOFS. Arrivals in the tray and in the bins (R63, R64, R172).
-/

namespace Sys2Proof.Machine

theorem modDisc_congr {id : Nat} {f g : Disc → Disc} {p : Part} (h : ∀ x ∈ p.flow.discs, x.id = id → f x = g x) :
    modDisc id f p = modDisc id g p := by
  have hmap : (p.flow.discs.map fun x => if x.id = id then f x else x) =
      p.flow.discs.map fun x => if x.id = id then g x else x :=
    List.map_congr_left fun x hx => ite_congr rfl (h x hx) fun _ => rfl
  simp only [modDisc, hmap]

/-- Settles O27: the disc's record and its bay, then the printer. -/
theorem trayMoveReportedDone : Obligations.TrayMoveReportedDone := by
  unfold Obligations.TrayMoveReportedDone
  intro l o d b fill s hopen ho hsource htarget h0 hid hd flow q arrives completes
  have hid' := findDisc_id hd
  have hprinter : ∀ st, (arrives st).printer = s.part.printer := by simp [arrives, q]
  have hjobs : ∀ st, (arrives st).jobs = s.part.jobs := by simp [arrives, q]
  have hslots : ∀ st, (arrives st).slots = s.part.slots := by simp [arrives, q]
  have harrived : ∀ st, arrives st = modDisc o.disc (fun x => { x with state := st })
      (freeBay b (modDisc o.disc (fun x => { x with position := .tray, destination := none }) q)) := by
    intro st
    have hid : ∀ x : Disc, ({ x with position := .tray, destination := none } : Disc).id = x.id := fun _ => rfl
    rw [freeBay_modDisc, modDisc_modDisc hid]
    rfl
  have hdone : moveArrives o d q = trayDone d (.bay b) q := by simp only [moveArrives, htarget, hsource]
  refine ⟨fun j x n y hst hj hx hn hy => moveDone_completes hopen ho h0 hid hd ?_,
    fun hst hall => moveDone_completes hopen ho h0 hid hd ?_⟩
  · refine congrArg settle (hdone.trans ?_)
    have hlabel : labelFor (arrives .printing) d = some ⟨n, y.length, x.defn.trim, 0, 0, 0⟩ := by
      simp only [labelFor, hj, hjobs, hslots, Option.bind_eq_bind, Option.bind_some, hx, hn, hy]
    have hstart : trayDone d (.bay b) q = startLabel d (arrives .printing) := by
      simp only [trayDone, hst, hid', leavePlace, harrived]
    simp only [hstart, startLabel, modPrinter, hlabel, hid', hprinter]
  · refine congrArg settle (hdone.trans ?_)
    have hsame : arrives .failed =
        freeBay b (modDisc o.disc (fun x => { x with position := .tray, destination := none }) q) := by
      have hdiscs : q.flow.discs = flow.discs := by simp only [q, judgeMove_flow]
      refine congrArg (freeBay b) (modDisc_congr (p := q) (f := fun x =>
        { x with position := .tray, destination := none, state := .failed }) fun x hx hxid => ?_)
      rw [hall x (hdiscs ▸ hx) hxid]
    simp only [trayDone, hst, hid', leavePlace, ← hsame, notPrinted, modPrinter, addOrder_keeps, hprinter]

/-- Settles O28: a delivery is an end of a move; the two ways of freeing a place are read off their definitions. -/
theorem deliveryReportedDone : Obligations.DeliveryReportedDone := by
  unfold Obligations.DeliveryReportedDone
  refine ⟨?_, fun p b => ?_, fun p => ?_⟩
  · intro l o d fill s hopen ho h0 hid hd flow q gone completes delivers
    have hid' := findDisc_id hd
    have hgone : removeDisc d.id q = gone := by rw [hid']; rfl
    have deliver : ∀ freed, leaveFor o.source gone = freed → delivers freed := by
      rintro _ rfl
      refine ⟨fun htarget => moveDone_completes hopen ho h0 hid hd (congrArg settle ?_),
        fun htarget => moveDone_completes hopen ho h0 hid hd (congrArg settle ?_)⟩
      · simp only [moveArrives, htarget, delivered, entryFor, hid', ← hgone]
        rfl
      · simp only [moveArrives, htarget, delivered, entryFor, hid', ← hgone]
        rfl
    refine ⟨fun b hsource => deliver _ ?_, fun hsource => deliver _ ?_⟩
    · rw [hsource]; rfl
    · rw [hsource]; rfl
  · intro x y
    exact ⟨freeBay_notPending, freeBay_pending⟩
  · intro becomes
    refine ⟨fun h => ?_, fun h hr => ?_, fun h hr => ?_⟩
    · exact if_neg h
    · exact (if_pos h).trans (if_neg (Nat.ne_of_gt hr))
    · exact (if_pos h).trans (if_pos hr)

end Sys2Proof.Machine
end

section
/-!
PROOFS. Moves reported failed (R65 to R67), and the refusals of a report of a move.
-/

namespace Sys2Proof.Machine

/-- A report of the issued order passes the checks of R65. -/
theorem moveFailedBody_issued {o : Order} {p : Part} {pickOnly : Bool} {r : Byte} {f : Order → Part → Part}
    (h0 : 0 < o.disc) (hid : o.disc < 65536) (ho : p.flow.issued = some o) (hr : r.toNat ≤ 2)
    (hpick : pickOnly = true → o.kind = .pick) :
    moveFailedBody (le16 o.disc ++ [r]) pickOnly f p = (.done [], settle (f o p)) := by
  have hkind : (pickOnly && decide (o.kind ≠ .pick)) = false := by
    cases pickOnly with
    | false => rfl
    | true => simp [hpick rfl]
  simp only [moveFailedBody, le16, List.cons_append, List.nil_append, discIdOf_le16 (Nat.ne_of_gt h0) hid, ho,
    if_neg (Nat.not_lt.2 hr), ne_eq, not_true_eq_false, if_false]
  simp only [ne_eq] at hkind
  simp only [hkind, Bool.false_eq_true, if_false]
  rfl

theorem discIdOf_zero {i0 i1 : Byte} (h : num16 i0 i1 = 0) : discIdOf i0 i1 = none := if_pos h

theorem discIdOf_num16 {i0 i1 : Byte} (h : num16 i0 i1 ≠ 0) : discIdOf i0 i1 = some (num16 i0 i1) := if_neg h

/-! ## What refuses a report -/

theorem moveFailedBody_range {i0 i1 x : Byte} (h : num16 i0 i1 = 0 ∨ 2 < x.toNat) (pickOnly : Bool)
    (f : Order → Part → Part) (p : Part) : moveFailedBody [i0, i1, x] pickOnly f p = (.refused .range [], p) := by
  by_cases hid : num16 i0 i1 = 0
  · simp only [moveFailedBody, discIdOf_zero hid, rangeError, refuse_eq]
  · simp only [moveFailedBody, discIdOf_num16 hid, if_pos (h.resolve_left hid), rangeError, refuse_eq]

theorem moveFailedBody_stale {i0 i1 x : Byte} {p : Part} (hid : num16 i0 i1 ≠ 0) (hx : x.toNat ≤ 2)
    (h : ∀ o, p.flow.issued = some o → o.disc ≠ num16 i0 i1) (pickOnly : Bool) (f : Order → Part → Part) :
    moveFailedBody [i0, i1, x] pickOnly f p = (.refused .staleMove [], p) := by
  simp only [moveFailedBody, discIdOf_num16 hid, if_neg (Nat.not_lt.2 hx)]
  cases ho : p.flow.issued with
  | none => rfl
  | some o => exact if_pos (h o ho)

theorem moveFailedBody_notPick {i0 i1 : Byte} {p : Part} {o : Order} (hid : num16 i0 i1 ≠ 0)
    (ho : p.flow.issued = some o) (hdisc : o.disc = num16 i0 i1) (hkind : o.kind ≠ .pick) (f : Order → Part → Part) :
    moveFailedBody [i0, i1, 0] true f p = (.refused .state [], p) := by
  have hzero : ¬ 2 < (0 : Byte).toNat := by decide
  simp only [moveFailedBody, discIdOf_num16 hid, if_neg hzero, ho, if_neg (not_not_intro hdisc)]
  exact if_pos (by simpa using hkind)

theorem moveKindOf_none {n : Nat} (h : 5 < n) : moveKindOf n = none := by
  obtain ⟨k, rfl⟩ : ∃ k, n = k + 6 := ⟨n - 6, by omega⟩
  rfl

theorem moveKindOf_eq {n : Nat} {k : MoveKind} (h : moveKindOf n = some k) : k.code = n := by
  unfold moveKindOf at h
  split at h <;> cases h <;> rfl

theorem moveDoneBody_range {i0 i1 x : Byte} (h : num16 i0 i1 = 0 ∨ 5 < x.toNat) (p : Part) :
    moveDoneBody [i0, i1, x] p = (.refused .range [], p) := by
  by_cases hid : num16 i0 i1 = 0
  · simp only [moveDoneBody, discIdOf_zero hid, rangeError, refuse_eq]
  · simp only [moveDoneBody, discIdOf_num16 hid, moveKindOf_none (h.resolve_left hid), rangeError, refuse_eq]

theorem moveDoneBody_stale {i0 i1 x : Byte} {p : Part} (hid : num16 i0 i1 ≠ 0) (hx : x.toNat ≤ 5)
    (h : ∀ o, p.flow.issued = some o → o.disc ≠ num16 i0 i1 ∨ o.kind.code ≠ x.toNat) :
    moveDoneBody [i0, i1, x] p = (.refused .staleMove [], p) := by
  have hknown : ∃ k, moveKindOf x.toNat = some k := by
    generalize x.toNat = n at hx
    interval_cases n <;> exact ⟨_, rfl⟩
  obtain ⟨k, hk⟩ := hknown
  simp only [moveDoneBody, discIdOf_num16 hid, hk, moveDone]
  cases ho : p.flow.issued with
  | none => rfl
  | some o =>
    refine if_neg ?_
    rintro ⟨hdisc, hkind⟩
    exact (h o ho).elim (· hdisc) (· (hkind ▸ moveKindOf_eq hk))

/-- Settles O29: the three failures of the issued order, and the refusals in their order. -/
theorem failedMovesTakeEffect : Obligations.FailedMovesTakeEffect := by
  unfold Obligations.FailedMovesTakeEffect
  refine ⟨?_, ?_⟩
  · intro l o d fill s hopen ho h0 hid hd flow off without
    have hid' := findDisc_id hd
    refine ⟨?_, ?_, ?_⟩
    · intro n b hpick hsource htarget q
      refine linkCommand_completes hopen (by simp [le16]) rfl
        ((moveFailedBody_issued h0 hid ho (by decide) fun _ => hpick).trans ?_)
      have hjob : jobOfOrder s.part o = d.job := by simp only [jobOfOrder, hd, Option.bind_some]
      have hwithdraw : withdraw o (emptySpindle o.source s.part) = judgeMove q := by
        simp only [withdraw, emptySpindle, hsource, htarget, leavePlace]
        rw [dropOrder_issued (by exact ho)]
        rfl
      simp only [spindleBare, hjob, hwithdraw]
    · intro q gone entry drops
      have hgone : removeDisc d.id q = gone := by rw [hid']; rfl
      have hlost : discLost o s.part = report d.job (if o.kind = .pick then ⟨1, 0, 1⟩ else ⟨0, 0, 1⟩)
          (raise .rejected (appendResult entry (freePlaces o gone))) := by
        simp only [discLost, hd, dropOrder_issued ho, ← hgone, entryFor, hid', entry]
        rfl
      have drop : ∀ {c freed}, (if o.kind = .pick then (⟨1, 0, 1⟩ : CounterChange) else ⟨0, 0, 1⟩) = c →
          freePlaces o gone = freed → drops c freed := by
        rintro _ _ rfl rfl
        exact linkCommand_completes hopen (by simp [le16]) rfl
          ((moveFailedBody_issued h0 hid ho (by decide) (by simp)).trans (by rw [hlost]))
      refine ⟨fun b hpick htarget => drop (if_pos hpick) ?_, fun b hkind hsource => drop (if_neg hkind) ?_,
        fun hkind hsource => drop (if_neg hkind) ?_⟩
      · simp only [freePlaces, hpick, htarget, leavePlace]
      · simp only [freePlaces, hsource, leaveFor, leavePlace]
      · simp only [freePlaces, hsource, leaveFor]
    · exact linkCommand_completes hopen (by simp [le16]) rfl
        ((moveFailedBody_issued h0 hid ho (by decide) (by simp)).trans rfl)
  · intro l i0 i1 x fill s hopen done failed id
    have hdone : ∀ {r}, moveDoneBody [i0, i1, x] s.part = (.refused r [], s.part) → done r :=
      fun h => linkCommand_completes hopen (by simp) rfl h
    have hfailed : ∀ {r}, (∀ pickOnly f, moveFailedBody [i0, i1, x] pickOnly f s.part = (.refused r [], s.part)) →
        failed r := fun h =>
      ⟨fun _ => linkCommand_completes hopen (by simp) rfl (h _ _),
        fun _ => linkCommand_completes hopen (by simp) rfl (h _ _),
        fun _ _ => linkCommand_completes hopen (by simp) rfl (h _ _)⟩
    refine ⟨fun h => hdone (moveDoneBody_range h _), fun h => hfailed (moveFailedBody_range h · · _),
      fun hid hx h => hdone (moveDoneBody_stale hid hx h), fun hid hx h => hfailed (moveFailedBody_stale hid hx h),
      fun o hid hx ho hdisc hkind => ⟨?_, ?_, fun _ _ => ?_⟩⟩
    · rintro h; rw [hx] at h; exact absurd h (by decide)
    · rintro h; rw [hx] at h; exact absurd h (by decide)
    · subst hx
      exact linkCommand_completes hopen (by simp) rfl (moveFailedBody_notPick hid ho hdisc hkind _)

end Sys2Proof.Machine
end

section
/-!
PROOFS. The identifiers of discs (R45), picks and their withdrawal (R51, R52, R55).
-/

namespace Sys2Proof.Machine

/-! ## New identifiers (R45) -/

/-- The identifiers follow one another round the 65,535 of them. -/
theorem succId_iterate {n : Nat} (h1 : 1 ≤ n) (h2 : n ≤ 65535) (i : Nat) :
    succId^[i] n = (n - 1 + i) % 65535 + 1 := by
  induction i with
  | zero => simp only [Function.iterate_zero, id_eq]; omega
  | succ i ih =>
    rw [Function.iterate_succ_apply', ih, succId]
    split <;> omega

/-- The search passes over identifiers in use, and stops at one that is not unless its fuel ends. -/
theorem freshId_spec (discs : List Disc) (fuel n : Nat) :
    ∃ k ≤ fuel, freshId discs fuel n = succId^[k] n ∧ (∀ i < k, ∃ d ∈ discs, d.id = succId^[i] n) ∧
      (k < fuel → ∀ d ∈ discs, d.id ≠ freshId discs fuel n) := by
  induction fuel generalizing n with
  | zero => exact ⟨0, Nat.le_refl 0, rfl, fun i hi => absurd hi (Nat.not_lt_zero i),
      fun h => absurd h (Nat.lt_irrefl 0)⟩
  | succ fuel ih =>
    by_cases hused : discs.any (fun d => d.id = n) = true
    · obtain ⟨k, hk, heq, hbefore, hfresh⟩ := ih (succId n)
      rw [freshId, if_pos hused]
      refine ⟨k + 1, Nat.succ_le_succ hk, heq, fun i hi => ?_, fun h => hfresh (Nat.lt_of_succ_lt_succ h)⟩
      cases i with
      | zero => simpa using hused
      | succ i => exact hbefore i (Nat.lt_of_succ_lt_succ hi)
    · rw [freshId, if_neg hused]
      refine ⟨0, Nat.zero_le _, rfl, fun i hi => absurd hi (Nat.not_lt_zero i), fun _ d hd heq => hused ?_⟩
      exact List.any_eq_true.2 ⟨d, hd, decide_eq_true heq⟩

/-- A table cannot use more identifiers that follow one another than it has records. -/
theorem exists_unused {discs : List Disc} {n : Nat} (h1 : 1 ≤ n) (h2 : n ≤ 65535) (hlen : discs.length < 65535) :
    ¬ ∀ i < discs.length + 1, ∃ d ∈ discs, d.id = succId^[i] n := by
  intro hall
  have hnodup : ((List.range (discs.length + 1)).map (succId^[·] n)).Nodup := by
    refine List.Nodup.map_on (fun i hi j hj heq => ?_) List.nodup_range
    rw [List.mem_range] at hi hj
    rw [succId_iterate h1 h2, succId_iterate h1 h2] at heq
    omega
  have hsubset : (List.range (discs.length + 1)).map (succId^[·] n) ⊆ discs.map (·.id) := by
    intro x hx
    obtain ⟨i, hi, rfl⟩ := List.mem_map.1 hx
    obtain ⟨d, hd, heq⟩ := hall i (List.mem_range.1 hi)
    exact List.mem_map.2 ⟨d, hd, heq⟩
  have hle := (hnodup.subperm hsubset).length_le
  simp only [List.length_map, List.length_range] at hle
  omega

/-- R45: the new identifier is the first unused one from the next identifier on. -/
theorem newId_spec {p : Part} (h1 : 1 ≤ p.flow.nextId) (h2 : p.flow.nextId ≤ 65535)
    (hlen : p.flow.discs.length < 65535) :
    (∀ d ∈ p.flow.discs, d.id ≠ newId p) ∧
      ∃ k, newId p = succId^[k] p.flow.nextId ∧ ∀ i < k, ∃ d ∈ p.flow.discs, d.id = succId^[i] p.flow.nextId := by
  obtain ⟨k, hk, heq, hbefore, hfresh⟩ := freshId_spec p.flow.discs (p.flow.discs.length + 1) p.flow.nextId
  have hlt : k < p.flow.discs.length + 1 :=
    lt_of_le_of_ne hk fun hall => exists_unused h1 h2 hlen (hall ▸ hbefore)
  exact ⟨hfresh hlt, k, heq, hbefore⟩

/-! ## Picks (R51) -/

theorem pickOrder_none {p : Part} (h : ∀ o ∈ p.flow.queue, o.kind ≠ .pick) : pickOrder p = none :=
  List.find?_eq_none.2 fun o ho => by simpa using h o ho

theorem pickOrder_isSome {p : Part} (h : ∃ o ∈ p.flow.queue, o.kind = .pick) : (pickOrder p).isNone = false := by
  obtain ⟨o, ho, hkind⟩ := h
  cases hpick : pickOrder p with
  | none => exact absurd hkind (by simpa using List.find?_eq_none.1 hpick o ho)
  | some _ => rfl

theorem pickOrder_some {p : Part} {before after : List Order} {o : Order} (hq : p.flow.queue = before ++ o :: after)
    (ho : o.kind = .pick) (hbefore : ∀ x ∈ before, x.kind ≠ .pick) : pickOrder p = some o :=
  List.find?_eq_some_iff_append.2 ⟨by simpa using ho, before, after, hq, fun x hx => by simpa using hbefore x hx⟩

/-- The first number that meets a test. -/
theorem find?_finRange {n : Nat} {test : Fin n → Bool} {i : Fin n} (h : test i = true)
    (hbefore : ∀ j < i, test j = false) : (List.finRange n).find? test = some i := by
  have hget : ∀ k : Fin n, (Vector.ofFn fun j : Fin n => j)[k] = k := fun k => by simp
  have hlowest : lowest (Vector.ofFn fun j : Fin n => j) test = some i :=
    lowest_some (by rw [hget]; exact h) fun j hj => by rw [hget]; exact hbefore j hj
  simpa only [lowest, hget] using hlowest

theorem find?_finRange_isSome {n : Nat} {test : Fin n → Bool} :
    ((List.finRange n).find? test).isSome = true ↔ ∃ i, test i = true := by
  simp only [List.find?_isSome, List.mem_finRange, true_and]

/-- R30: the job needs discs. -/
theorem needsDiscs_iff {p : Part} {j : JobNum} {x : Job} (hx : p.jobs[j] = some x) :
    needsDiscs p j = true ↔ x.state = .running ∧ x.accepted + inFlight p j < x.defn.target ∧
      x.picked + boundCount p j < 65535 := by
  simp only [needsDiscs, hx, Bool.and_eq_true, decide_eq_true_eq, and_assoc]

/-- R51, condition 6: a bay that may take a pick. -/
def Fit (p : Part) (m : Media) (c : BayNum) : Prop :=
  p.bays[c].present = true ∧ p.bays[c].enabled = true ∧ p.bays[c].state = .empty ∧
    p.bays[c].disablePending = false ∧ p.bays[c].capability.speed m ≠ 0 ∧ p.thermal.bays[c].condition ≠ .critical

theorem bayOffers_iff (p : Part) (m : Media) (c : BayNum) : bayOffers p m c = true ↔ Fit p m c := by
  simp only [bayOffers, Fit, Capability.capable, Bool.and_eq_true, Bool.not_eq_true', decide_eq_true_eq, bne_iff_ne,
    and_assoc, ne_eq]

theorem pickFor_some {p : Part} {j : JobNum} {x : Job} {n : SpindleNum} {b : BayNum} (hx : p.jobs[j] = some x)
    (hneeds : needsDiscs p j = true) (hn : p.flow.spindles[n] = some x.defn.media)
    (hspindles : ∀ m : SpindleNum, m < n → p.flow.spindles[m] ≠ some x.defn.media) (hb : Fit p x.defn.media b)
    (hbays : ∀ c : BayNum, c < b → ¬ Fit p x.defn.media c) : pickFor p j = some (n, b) := by
  have hspindle : spindleFor p x.defn.media = some n :=
    find?_finRange (decide_eq_true hn) fun m hm => decide_eq_false (hspindles m hm)
  have hbay : (List.finRange 10).find? (bayOffers p x.defn.media) = some b :=
    find?_finRange ((bayOffers_iff ..).2 hb) fun c hc => Bool.eq_false_iff.2 (mt (bayOffers_iff ..).1 (hbays c hc))
  simp only [pickFor, hx, hneeds, if_true, hspindle, hbay]

/-- Conditions 4 to 6 of R51 hold for a job. -/
theorem pickFor_ne_none (p : Part) (j : JobNum) :
    pickFor p j ≠ none ↔ ∃ x, p.jobs[j] = some x ∧ needsDiscs p j = true ∧
      (∃ n : SpindleNum, p.flow.spindles[n] = some x.defn.media) ∧ ∃ c, Fit p x.defn.media c := by
  cases hx : p.jobs[j] with
  | none => simp [pickFor, hx]
  | some x =>
    have hspindle : (spindleFor p x.defn.media).isSome = true ↔
        ∃ n : SpindleNum, p.flow.spindles[n] = some x.defn.media := by
      simp only [spindleFor, find?_finRange_isSome, decide_eq_true_eq]
    have hbay : ((List.finRange 10).find? (bayOffers p x.defn.media)).isSome = true ↔ ∃ c, Fit p x.defn.media c := by
      simp only [find?_finRange_isSome, bayOffers_iff]
    simp only [Option.some.injEq, exists_eq_left', ← hspindle, ← hbay, pickFor, hx]
    cases needsDiscs p j with
    | false => simp
    | true =>
      cases spindleFor p x.defn.media with
      | none => simp
      | some n => cases (List.finRange 10).find? (bayOffers p x.defn.media) <;> simp

theorem choosePick_first {p : Part} {before after : List JobNum} {j : JobNum} {n : SpindleNum} {b : BayNum}
    (hbefore : ∀ i ∈ before, pickFor p i = none) (h : pickFor p j = some (n, b)) :
    choosePick p (before ++ j :: after) = some (j, n, b) := by
  induction before with
  | nil => simp only [List.nil_append, choosePick, h]
  | cons i is ih =>
    rw [List.cons_append, choosePick, hbefore i List.mem_cons_self]
    exact ih fun k hk => hbefore k (List.mem_cons_of_mem i hk)

theorem choosePick_none {p : Part} {js : List JobNum} (h : ∀ j ∈ js, pickFor p j = none) : choosePick p js = none := by
  induction js with
  | nil => rfl
  | cons j js ih =>
    rw [choosePick, h j List.mem_cons_self]
    exact ih fun k hk => h k (List.mem_cons_of_mem j hk)

/-! ## Withdrawal (R55) -/

theorem withdrawPickOf_withdraws {p : Part} {o : Order} {j : JobNum} (ho : pickOrder p = some o)
    (hissued : p.flow.issued ≠ some o) (hj : jobOfOrder p o = some j) : withdrawPickOf j p = withdraw o p := by
  simp only [withdrawPickOf, ho]
  refine if_pos ?_
  simp only [isIssued, hj, Bool.and_eq_true, Bool.not_eq_true', decide_eq_false_iff_not, decide_true, and_true]
  exact hissued

theorem withdrawPickOf_stays {p : Part} {o : Order} {j : JobNum} (ho : pickOrder p = some o)
    (h : p.flow.issued = some o ∨ jobOfOrder p o ≠ some j) : withdrawPickOf j p = p := by
  simp only [withdrawPickOf, ho]
  refine if_neg ?_
  simp only [isIssued, Bool.and_eq_true, Bool.not_eq_true', decide_eq_false_iff_not, decide_eq_true_eq]
  rintro ⟨hissued, hj⟩
  exact h.elim hissued (· hj)

theorem dropOrder_unissued {o : Order} {p : Part} (h : p.flow.issued ≠ some o) :
    dropOrder o p = { p with flow := { p.flow with queue := p.flow.queue.filter (· ≠ o) } } := by
  simp only [dropOrder, if_neg h]

/-- Settles O31: the search of R51 finds what the conditions name. -/
theorem pickIsCreated : Obligations.PickIsCreated := by
  unfold Obligations.PickIsCreated
  intro p
  refine ⟨?_, ?_, ?_, ?_, fun j => ?_, fun h1 h2 hlen => newId_spec h1 h2 hlen⟩
  · intro before after j x n b hnone hheld hambient hrun hbefore hx hstate htarget hpicked hn hspindles fit hb hbays
    intro id q
    have hpick : pickFor p j = some (n, b) :=
      pickFor_some hx ((needsDiscs_iff hx).2 ⟨hstate, htarget, hpicked⟩) hn hspindles hb hbays
    have hchosen : choosePick p p.runList = some (j, n, b) := by rw [hrun]; exact choosePick_first hbefore hpick
    have htest : ((pickOrder p).isNone && !p.flow.held && !ambientCritical p) = true := by
      simp [pickOrder_none hnone, hheld, ambientCritical, hambient]
    have henter : p.bays[b].enter .reserved = .reserved := if_pos hb.1
    simp only [judgePick, htest, if_true, hchosen]
    simp only [modBay, createDisc_keeps, henter]
    rfl
  · have stops : ((pickOrder p).isNone && !p.flow.held && !ambientCritical p) = false → judgePick p = p := fun h => by
      simp only [judgePick, h, Bool.false_eq_true, if_false]
    rintro (h | h | h | h)
    · exact stops (by simp [pickOrder_isSome h])
    · exact stops (by simp [h])
    · exact stops (by simp [ambientCritical, h])
    · simp only [judgePick, choosePick_none h, ite_self]
  · intro hnone j
    simp only [withdrawPickOf, pickOrder_none hnone]
  · intro before after o d hq hkind hbefore hd
    have hpick := pickOrder_some hq hkind hbefore
    have hjob : jobOfOrder p o = d.job := by simp only [jobOfOrder, hd, Option.bind_some]
    refine ⟨fun j h => withdrawPickOf_stays hpick (hjob ▸ h), fun j b hissued hj htarget => ⟨?_, ?_⟩⟩
    · exact withdrawPickOf_withdraws hpick hissued (hjob.trans hj)
    · simp only [withdraw, htarget, leavePlace, dropOrder_unissued hissued]
      rfl
  · rw [pickFor_ne_none]
    refine exists_congr fun x => and_congr_right fun hx => ?_
    rw [needsDiscs_iff hx, and_assoc, and_assoc]
    rfl

end Sys2Proof.Machine
end

section
/-!
PROOFS. Where discs are sent, and what every step judges at its end (R56, R57, R59, R61).
-/

namespace Sys2Proof.Machine

/-! ## Routing (R56) -/

/-- The record of a bay whose disc is to leave it. -/
def Bay.holding (x : Bay) : Bay := { x with state := if x.present then .holding else x.state }

theorem failDisc_inBay {d : Disc} {b : BayNum} (hb : d.position = .bay b) (why : RejectReason) (p : Part) :
    failDisc d why p = addOrder .bayToReject d.id (.bay b) .rejectBin (modBay b Bay.holding
      (modDisc d.id (fun x => { x with reason := some why, session := none, state := .failed }) p)) := by
  simp only [failDisc, routeFailed, markFailed, enterState, followBay, hb]
  rfl

theorem failDisc_inTray {d : Disc} (ht : d.position = .tray) (why : RejectReason) (p : Part) :
    failDisc d why p = addOrder .printerToReject d.id .tray .rejectBin
      (modDisc d.id (fun x => { x with reason := some why, session := none, state := .failed }) p) := by
  simp only [failDisc, routeFailed, markFailed, enterState, followBay, ht]

theorem printsLabel_iff {p : Part} {d : Disc} {j : JobNum} {x : Job} (hj : d.job = some j) (hx : p.jobs[j] = some x) :
    printsLabel p d = true ↔ x.defn.labelSlot ≠ none := by
  simp only [printsLabel, hj, Option.bind_some, hx, Option.isSome_iff_ne_none]

theorem routePassed_bins {p : Part} {d : Disc} {b : BayNum} (hb : d.position = .bay b) (h : ¬ printsLabel p d = true) :
    routePassed d p = addOrder .bayToAccept d.id (.bay b) .acceptBin p := by
  simp only [routePassed, hb, if_neg h]

theorem routePassed_waits {p : Part} {d : Disc} {b : BayNum} (hb : d.position = .bay b) (h : printsLabel p d = true) :
    routePassed d p = { p with
      flow := { p.flow with
        discs := p.flow.discs.map fun y => if y.id = d.id then { y with state := .printWait } else y
        waitList := p.flow.waitList ++ [d.id] }
      bays := put p.bays b p.bays[b].holding } := by
  simp only [routePassed, hb, if_pos h, enterState, followBay]
  rfl

/-! ## The wait list (R57) -/

theorem headLabel_some {p : Part} {d : Disc} {rest : List Nat} {j : JobNum} {x : Job} {n : SlotNum} {y : Slot}
    (hwait : p.flow.waitList = d.id :: rest) (hd : findDisc p d.id = some d) (hj : d.job = some j)
    (hx : p.jobs[j] = some x) (hn : x.defn.labelSlot = some n) (hy : p.slots[n] = some y) :
    headLabel p = some (d, y.length) := by
  simp only [headLabel, hwait, List.head?_cons, Option.bind_eq_bind, Option.bind_some, hd, hj, hx, hn, hy]

theorem trayReady_iff (p : Part) : trayReady p = true ↔ p.printer.state = .idle ∧
    ∀ e ∈ p.flow.discs, e.position ≠ .tray ∧ e.destination ≠ some .tray := by
  simp only [trayReady, trayHeld, trayReserved, Bool.and_eq_true, Bool.not_eq_true', List.any_eq_false,
    decide_eq_true_eq]
  constructor
  · rintro ⟨⟨hheld, hreserved⟩, hidle⟩
    exact ⟨hidle, fun e he => ⟨hheld e he, hreserved e he⟩⟩
  · rintro ⟨hidle, h⟩
    exact ⟨⟨fun e he => (h e he).1, fun e he => (h e he).2⟩, hidle⟩

/-! ## MOVE (R61) -/

theorem moveWaits_iff (p : Part) : moveWaits p = true ↔ p.flow.issued = none ∧ p.flow.held = false ∧
    ∃ o ∈ p.flow.queue, (o.target = .acceptBin → p.flow.acceptFull = false) ∧
      (o.target = .rejectBin → p.flow.rejectFull = false) ∧
      (o.kind = .pick → p.thermal.ambient.condition ≠ .critical) := by
  simp only [moveWaits, Bool.and_eq_true, Option.isNone_iff_eq_none, List.any_eq_true, eligible_iff]
  constructor
  · rintro ⟨hnone, o, ho, hheld, hrest⟩
    exact ⟨hnone, hheld, o, ho, hrest⟩
  · rintro ⟨hnone, hheld, o, ho, hrest⟩
    exact ⟨hnone, o, ho, hheld, hrest⟩

/-- Settles O32: each route and each condition that a step judges, in the order of `settle`. -/
theorem discsAreRouted : Obligations.DiscsAreRouted := by
  unfold Obligations.DiscsAreRouted
  intro holding
  refine ⟨fun d why p => ⟨fun b hb => failDisc_inBay hb why p, fun ht => failDisc_inTray ht why p⟩,
    fun d j x b p hb hj hx => ⟨fun hlabel => routePassed_bins hb ?_, fun hlabel => routePassed_waits hb ?_⟩,
    fun k id a b p => rfl, rfl, fun p => rfl, fun p => ?_, fun p => ?_⟩
  · exact fun h => (printsLabel_iff hj hx).1 h hlabel
  · exact (printsLabel_iff hj hx).2 hlabel
  · intro short
    refine ⟨fun hwait => ?_, fun d rest j x n y hwait hd hj hx hn hy => ?_⟩
    · have hhead : headLabel p = none := by simp only [headLabel, hwait, List.head?_nil]; rfl
      simp only [judgeWait, hhead]
      rfl
    · have hhead := headLabel_some hwait hd hj hx hn hy
      intro ready
      have hready : trayReady p = true ↔ ready := trayReady_iff p
      refine ⟨fun h => ?_, fun h hlong => ?_, fun h hshort hset => ?_, fun h hshort hset => ?_⟩
      · simp only [judgeWait, hhead, if_neg (mt hready.1 h)]
        rfl
      · simp only [judgeWait, hhead, if_pos (hready.2 h), if_pos hlong, hwait]
        rfl
      · simp only [judgeWait, hhead, if_pos (hready.2 h), if_neg (Nat.not_le.2 hshort), hset]
        rfl
      · simp only [judgeWait, hhead, if_pos (hready.2 h), if_neg (Nat.not_le.2 hshort), hset]
        rfl
  · intro becomes waits
    have hwaits : moveWaits p = true ↔ waits := moveWaits_iff p
    refine ⟨fun h => ?_, fun h hset => ?_, fun h hset => ?_⟩
    · simp only [judgeMove, Bool.eq_false_iff.2 (mt hwaits.1 h)]
      rfl
    · simp only [judgeMove, hwaits.2 h, hset]
      rfl
    · simp only [judgeMove, hwaits.2 h, hset]
      rfl

end Sys2Proof.Machine
end

section
/-!
PROOFS. Timers and the ATTN line (R79, R80, R100, R101, R104, R110, R125).
-/

namespace Sys2Proof.Machine

/-- An event whose effect on the part is known. -/
theorem event_happens_of {i : Instr} {s : State} {f : Part → Part} {q : Part} (hheld : s.part.held = false)
    (hexec : exec i s = event f s) (h : f s.part = q) : Happens i s q := h ▸ event_happens hheld hexec

theorem event_happensSampling_of {i : Instr} {s : State} {pins : Pins} {f : Part → Part} {q : Part}
    (hheld : s.part.held = false) (hexec : exec i s = event f { s with pins := pins }) (h : f s.part = q) :
    HappensSampling i s pins q := h ▸ event_happensSampling hheld hexec

/-! ## Items that merge (R104) -/

theorem reads_iff {b : BayNum} {it : Item} : it.reads b = true ↔ ∃ polled, it = .statusRead b polled := by
  cases it <;> simp [Item.reads]

theorem readWaiting_iff (p : Part) (b : BayNum) :
    readWaiting p b = true ↔ ∃ polled, .statusRead b polled ∈ p.bus.list ∨ .statusRead b polled ∈ p.bus.turn.rest := by
  simp only [readWaiting, waitingItems, List.any_eq_true, reads_iff, List.mem_append]
  constructor
  · rintro ⟨_, hmem, polled, rfl⟩
    exact ⟨polled, hmem⟩
  · rintro ⟨polled, hmem⟩
    exact ⟨_, hmem, polled, rfl⟩

theorem ask_read_waiting {p : Part} {b : BayNum}
    (h : ∃ polled, .statusRead b polled ∈ p.bus.list ∨ .statusRead b polled ∈ p.bus.turn.rest) (polled : Bool) :
    ask (.statusRead b polled) p = p := ask_merges ((readWaiting_iff p b).2 h)

theorem ask_read_new {p : Part} {b : BayNum}
    (h : ∀ polled, ¬ (.statusRead b polled ∈ p.bus.list ∨ .statusRead b polled ∈ p.bus.turn.rest)) (polled : Bool) :
    ask (.statusRead b polled) p = { p with bus := { p.bus with list := p.bus.list ++ [.statusRead b polled] } } :=
  ask_joins (Bool.eq_false_iff.2 (mt (readWaiting_iff p b).1 (not_exists.2 h)))

theorem mergesWith_readyPoll (p : Part) (n : SessionNum) :
    mergesWith p (.readyPoll n) = true ↔ .readyPoll n ∈ p.bus.list ∨ .readyPoll n ∈ p.bus.turn.rest := by
  simp [mergesWith, waitingItems]

/-! ## The poll wanted condition (R100) -/

/-- What holds off a SERVICE POLL: one that is wanted, waits or is under way, or a read that one produced (R100). -/
def PollBusy (bus : Bus) : Prop :=
  bus.pollWanted = true ∨ .servicePoll ∈ bus.list ∨ .servicePoll ∈ bus.turn.rest ∨
    bus.turn.item = some .servicePoll ∨ ∃ it ∈ bus.list ++ bus.turn.rest, ∃ b, it = .statusRead b true

theorem polledRead_iff {it : Item} : it.polledRead = true ↔ ∃ b, it = .statusRead b true := by
  cases it <;> simp [Item.polledRead]

theorem pollBusy_test (p : Part) :
    (p.bus.pollWanted || (waitingItems p).contains .servicePoll || decide (p.bus.turn.item = some .servicePoll)
      || (waitingItems p).any Item.polledRead) = true ↔ PollBusy p.bus := by
  simp only [PollBusy, waitingItems, Bool.or_eq_true, List.contains_iff_mem, List.mem_append, decide_eq_true_eq,
    List.any_eq_true, polledRead_iff, or_assoc]

theorem judgePoll_asks {p : Part} (hbusy : ¬ PollBusy p.bus) (hoff : p.bus.holdOff = none) :
    judgePoll true p =
      { p with bus := { p.bus with list := p.bus.list ++ [.servicePoll], pollWanted := true } } := by
  have htest := Bool.eq_false_iff.2 (mt (pollBusy_test p).1 hbusy)
  simp only [judgePoll, htest, hoff]
  rfl

theorem judgePoll_stays {p : Part} {attn : Bool} (h : attn = false ∨ PollBusy p.bus ∨ p.bus.holdOff ≠ none) :
    judgePoll attn p = p := by
  unfold judgePoll
  refine if_neg ?_
  simp only [Bool.and_eq_true, Bool.not_eq_true', not_and, Option.isNone_iff_eq_none]
  rintro ⟨rfl, hfree⟩
  rcases h with h | h | h
  · cases h
  · rw [(pollBusy_test p).2 h] at hfree
    cases hfree
  · exact h

/-- Settles O34: each timer asks for its item, and ATTN for a poll unless one is on its way. -/
theorem timersAndAttentionAskForItems : Obligations.TimersAndAttentionAskForItems := by
  unfold Obligations.TimersAndAttentionAskForItems
  refine ⟨fun s hheld => ?_, fun attn s hheld => ?_⟩
  · intro p asks waits
    refine ⟨fun b hruns => ?_, fun b hruns => ?_, fun n x hx hruns => ?_, event_happens (f := pauseEnds) hheld rfl⟩
    · intro q
      have hexpires : housekeepingExpires b p = ask (.statusRead b false) q := if_pos hruns
      exact ⟨fun h => event_happens_of hheld rfl (hexpires.trans (ask_read_waiting (p := q) h false)),
        fun h => event_happens_of hheld rfl (hexpires.trans (ask_read_new (p := q) h false))⟩
    · intro q
      have hexpires : probeExpires b p = ask (.statusRead b false) q := if_pos hruns
      exact ⟨fun h => event_happens_of hheld rfl (hexpires.trans (ask_read_waiting (p := q) h false)),
        fun h => event_happens_of hheld rfl (hexpires.trans (ask_read_new (p := q) h false))⟩
    · intro q
      have hexpires : stallExpires n p = ask (.readyPoll n) q := by
        simp only [stallExpires, show p.engine.sessions[n] = some x from hx, hruns, if_true]
        rfl
      have hmerges : mergesWith q (.readyPoll n) = true ↔ waits (.readyPoll n) := mergesWith_readyPoll q n
      exact ⟨fun h => event_happens_of hheld rfl (hexpires.trans (ask_merges (hmerges.2 h))),
        fun h => event_happens_of hheld rfl (hexpires.trans (ask_joins (Bool.eq_false_iff.2 (mt hmerges.1 h))))⟩
  · intro bus pollRead busy asks rises expires ended
    have rise : ∀ {q}, judgePoll true s.part = q → rises q := event_happensSampling_of hheld rfl
    have expire : ∀ {q}, bus.holdOff ≠ none → judgePoll attn { s.part with bus := ended } = q → expires q := by
      intro q hoff h
      refine event_happensSampling_of (f := holdOffEnds attn) hheld rfl ((if_pos ?_).trans h)
      exact Option.isSome_iff_ne_none.2 hoff
    refine ⟨fun hbusy hoff => rise (judgePoll_asks hbusy hoff), fun h => rise (judgePoll_stays (.inr h)),
      fun hoff hattn hbusy => expire hoff ?_, fun hoff h => expire hoff (judgePoll_stays ?_)⟩
    · subst hattn
      exact judgePoll_asks (p := { s.part with bus := ended }) hbusy rfl
    · exact h.imp_right .inl

end Sys2Proof.Machine
end

section
/-!
PROOFS. Service rounds, what the items of a session offer, and the lines the part drives (R91 to R94, R98, R105, R110).
-/

namespace Sys2Proof.Machine

/-! ## Carrying out the items of a list -/

/-- What an item offers does not depend on the bus. -/
theorem carryOut_bus (p : Part) (b : Bus) (it : Item) : carryOut { p with bus := b } it = carryOut p it := by
  cases it <;> rfl

/-- Whether an entry may be granted does not depend on the bus (R107). -/
theorem entryEligible_bus (p : Part) (b : Bus) (e : RingEntry) :
    entryEligible { p with bus := b } e = entryEligible p e := by
  cases e <;> rfl

/-- Items that are not carried out go unsent. -/
theorem nextItem_skips {p : Part} {skipped : List Item} (h : ∀ x ∈ skipped, carryOut p x = none) (rest : List Item) :
    nextItem (skipped ++ rest) p = nextItem rest p := by
  induction skipped with
  | nil => rfl
  | cons it its ih =>
    simp only [List.cons_append, nextItem, h it List.mem_cons_self]
    exact ih fun x hx => h x (List.mem_cons_of_mem it hx)

/-- A round without an item that is carried out is over. -/
theorem nextItem_over {p : Part} {items : List Item} (h : ∀ x ∈ items, carryOut p x = none) :
    nextItem items p =
      { p with bus := { p.bus with turn := .none, afterRound := anyEligible p, fruitless := [] } } := by
  have hskip := nextItem_skips h []
  rw [List.append_nil] at hskip
  exact hskip

/-- The first item that is carried out goes on the bus with the addressing it needs. -/
theorem nextItem_first {p : Part} {skipped : List Item} {it : Item} {rest : List Item} {need : Option Addressing}
    {offer : Offer} (h : ∀ x ∈ skipped, carryOut p x = none) (hit : carryOut p it = some (need, offer)) :
    nextItem (skipped ++ it :: rest) p = { p with bus := { p.bus with
      turn := .round (some ⟨it, true, offer⟩) rest
      pollWanted := p.bus.pollWanted && it ≠ .servicePoll
      addressing := need.getD p.bus.addressing
      sent := need.elim [] (addressCommands p.bus.addressing) } } := by
  rw [nextItem_skips h, nextItem, hit]
  cases need with
  | none => rfl
  | some a => rfl

theorem roundReady_iff (p : Part) : roundReady p = true ↔ p.bus.turn = .none ∧ p.bus.list ≠ [] ∧
    (p.bus.afterRound = false ∨ ∀ e ∈ p.bus.ring, entryEligible p e = false) := by
  simp only [roundReady, anyEligible, Bool.and_eq_true, decide_eq_true_eq, Bool.not_eq_true', Bool.and_eq_false_iff,
    List.any_eq_false, List.isEmpty_eq_false_iff, Bool.not_eq_true, and_assoc, ne_eq]

/-! ## What a session's items offer (R93, R94) -/

theorem listenersOf_pairwise (x : Session) : (listenersOf x).Pairwise (· < ·) :=
  (List.pairwise_lt_finRange 10).filter _

theorem mem_listenersOf {x : Session} {b : BayNum} : b ∈ listenersOf x ↔ ∃ m ∈ x.members, m.bay = b := by
  simp [listenersOf]

/-- The items of a session that is not there, or has no members, are not carried out. -/
theorem carryOut_ofSession {p : Part} {n : SessionNum}
    (h : p.engine.sessions[n] = none ∨ ∃ x, p.engine.sessions[n] = some x ∧ x.members = []) {it : Item}
    (hit : it.ofSession n = true) : carryOut p it = none := by
  have hown : ∀ m : SessionNum, decide (m = n) = true → m = n := fun m => of_decide_eq_true
  cases it with
  | prepare m | go m | close m | readyPoll m =>
    cases hown m hit
    rcases h with hnone | ⟨x, hx, hempty⟩
    · simp only [carryOut, hnone]
    · simp only [carryOut, hx, hempty, List.isEmpty_nil, if_true]
  | statusRead | clear | clearAll | servicePoll | readback => cases hit

theorem isEmpty_of_ne {α : Type} {l : List α} (h : l ≠ []) : l.isEmpty = false := by
  cases l with
  | nil => exact absurd rfl h
  | cons => rfl

/-! ## The lines (R91, R98) -/

theorem cmdAsserted_iff (p : Part) : cmdAsserted p = true ↔ p.held = false ∧
    ∃ it live c rest, p.bus.turn = .round (some ⟨it, live, .command c⟩) rest := by
  unfold cmdAsserted
  split
  · next it live c rest hturn => simp [hturn]
  · next hother => simpa using fun _ it live c rest h => hother it live c rest h

theorem validAsserted_iff (p : Part) : validAsserted p = true ↔ p.held = false ∧
    ((∃ c rest, p.bus.turn = .round (some c) rest ∧ c.offer ≠ .record) ∨
      ∃ n live i d, p.bus.turn = .block n live i d) := by
  cases hturn : p.bus.turn with
  | none => simp [validAsserted, hturn]
  | block n live i d => simp [validAsserted, hturn]
  | talk k live => simp [validAsserted, hturn]
  | round c rest =>
    cases c with
    | none => simp [validAsserted, hturn]
    | some c =>
      obtain ⟨it, live, offer⟩ := c
      cases offer <;> simp [validAsserted, hturn]

theorem listening_iff (p : Part) : listening p = true ↔ p.held = false ∧
    ((∃ it live rest, p.bus.turn = .round (some ⟨it, live, .record⟩) rest) ∨ ∃ k live, p.bus.turn = .talk k live) := by
  cases hturn : p.bus.turn with
  | none => simp [listening, hturn]
  | block n live i d => simp [listening, hturn]
  | talk k live => simp [listening, hturn]
  | round c rest =>
    cases c with
    | none => simp [listening, hturn]
    | some c =>
      obtain ⟨it, live, offer⟩ := c
      cases offer <;> simp [listening, hturn]

/-- Settles O35: a round, its items, and the lines, each read off its definition. -/
theorem serviceRoundTakesTheList : Obligations.ServiceRoundTakesTheList := by
  unfold Obligations.ServiceRoundTakesTheList
  refine ⟨fun s hheld hturn hlist hready => ?_, fun p => ?_, fun p => ?_⟩
  · intro bus
    have hbegins : beginRound s.part =
        nextItem bus.list { s.part with bus := { bus with list := [], pause := none, fruitless := [] } } :=
      if_pos ((roundReady_iff _).2 ⟨hturn, hlist, hready⟩)
    refine ⟨fun skipped it rest need offer hitems hskipped hit => event_happens_of hheld rfl (hbegins.trans ?_),
      fun hskipped => event_happens_of hheld rfl (hbegins.trans ?_)⟩
    · rw [hitems]
      refine (nextItem_first (fun x hx => (carryOut_bus ..).trans (hskipped x hx))
        ((carryOut_bus ..).trans hit)).trans ?_
      cases need with
      | none => rfl
      | some a => rfl
    · rw [nextItem_over fun x hx => (carryOut_bus ..).trans (hskipped x hx)]
      simp only [anyEligible, funext (entryEligible_bus s.part _)]
  · refine ⟨fun n x y hx hmembers hy => ?_, fun n h it hit => carryOut_ofSession h hit, fun k r hr => ?_,
      fun b _ => rfl,
      fun b => rfl, rfl, rfl, fun need => ⟨rfl, fun hsame => ?_, fun hother => ?_⟩⟩
    · have hempty := isEmpty_of_ne hmembers
      refine ⟨listenersOf x, listenersOf_pairwise x, fun b => mem_listenersOf, ?_, ?_, ?_, ?_⟩
      · simp only [carryOut, hx, hempty, hy]; rfl
      · simp only [carryOut, hx, hempty]; rfl
      · simp only [carryOut, hx, hempty]; rfl
      · simp only [carryOut, hx, hempty]; rfl
    · simp only [carryOut, hr]
    · exact ⟨if_pos hsame, if_pos hsame⟩
    · intro commands
      exact ⟨if_neg hother, if_neg hother⟩
  · intro record talks
    refine ⟨cmdAsserted_iff p, validAsserted_iff p, fun hheld h => ?_, fun h => ?_⟩
    · have hlistening : listening p = true := (listening_iff p).2 ⟨hheld, h⟩
      exact ⟨if_pos hlistening, if_pos hlistening⟩
    · have hnot : ¬ listening p = true := fun hl => by
        obtain ⟨hheld, hrecord | htalks⟩ := (listening_iff p).1 hl
        · exact h.elim (by simp [hheld]) fun hn => hn.1 hrecord
        · exact h.elim (by simp [hheld]) fun hn => hn.2 htalks
      exact ⟨if_neg hnot, if_neg hnot⟩

end Sys2Proof.Machine
end

section
/-!
PROOFS. Grants (R107 to R110).
-/

namespace Sys2Proof.Machine

/-! ## Eligible entries (R107) -/

/-- R107: an entry that may be granted. -/
def MayGo (p : Part) : RingEntry → Prop
  | .broadcast n => ∃ x, p.engine.sessions[n] = some x ∧
    (x.state = .priming ∧ x.cursor < x.primeCount.getD 0 ∨ x.state = .streaming ∧ x.cursor < x.blockCount)
  | .readback k => ∃ r, p.verifier.places[k] = some r ∧ r.taken < r.blockCount ∧ r.held.length < 2

theorem entryEligible_iff (p : Part) (e : RingEntry) : entryEligible p e = true ↔ MayGo p e := by
  cases e with
  | broadcast n =>
    simp only [entryEligible, MayGo]
    cases p.engine.sessions[n] with
    | none => simp
    | some x => cases hst : x.state <;> simp [hst]
  | readback k =>
    simp only [entryEligible, MayGo]
    cases p.verifier.places[k] with
    | none => simp
    | some r => simp

/-- A session whose state and block counts stand is as eligible as before. -/
theorem mayGo_setSession {p : Part} {n : SessionNum} {x y : Session} (hx : p.engine.sessions[n] = some x)
    (hstate : y.state = x.state) (hcursor : y.cursor = x.cursor) (hprime : y.primeCount = x.primeCount)
    (hcount : y.blockCount = x.blockCount) (e : RingEntry) : MayGo (setSession n (some y) p) e ↔ MayGo p e := by
  cases e with
  | readback k => exact Iff.rfl
  | broadcast m =>
    by_cases hm : m = n
    · subst hm
      simp only [MayGo, setSession_keeps, put_get_self, hx, Option.some.injEq, exists_eq_left', hstate, hcursor, hprime,
        hcount]
    · simp only [MayGo, setSession_keeps, put_get_other _ _ _ _ hm]

/-! ## The order of the ring (R108) -/

theorem mem_ringFrom {b : Bus} {e : RingEntry} (h : e ∈ ringFrom b) : e ∈ b.ring := by
  unfold ringFrom at h
  split at h
  · exact h
  · simp only [List.mem_append, List.mem_filter] at h
    rcases h with (h | h) | ⟨h, _⟩
    · exact (List.dropWhile_sublist _).subset (List.mem_of_mem_drop h)
    · exact (List.takeWhile_sublist _).subset h
    · exact h

/-- From the entry after the grant position, wrapping round. -/
theorem ringFrom_split {b : Bus} {c : RingEntry} {A B : List RingEntry} (hnodup : b.ring.Nodup)
    (hposition : b.position = some c) (hring : b.ring = A ++ c :: B) : ringFrom b = B ++ A ++ [c] := by
  rw [hring] at hnodup
  have hA : ∀ x ∈ A, x ≠ c := fun x hx h => (List.nodup_append.1 hnodup).2.2 x hx c List.mem_cons_self h
  have hB : ∀ x ∈ B, x ≠ c := fun x hx h => (List.nodup_cons.1 (List.nodup_append.1 hnodup).2.1).1 (h ▸ hx)
  have hnone : ∀ l : List RingEntry, (∀ x ∈ l, x ≠ c) → l.filter (· = c) = [] := fun l hl =>
    List.filter_eq_nil_iff.2 fun x hx => by simpa using hl x hx
  have hfirst : ∀ x ∈ A, decide (x ≠ c) = true := fun x hx => decide_eq_true (hA x hx)
  simp only [ringFrom, hposition, hring, List.dropWhile_append_of_pos hfirst, List.takeWhile_append_of_pos hfirst,
    List.filter_append, List.filter_cons, hnone A hA, hnone B hB]
  simp

theorem nextGrant_some {p : Part} {before after : List RingEntry} {e : RingEntry}
    (h : ringFrom p.bus = before ++ e :: after) (he : MayGo p e) (hbefore : ∀ x ∈ before, ¬ MayGo p x) :
    nextGrant p = some e :=
  List.find?_eq_some_iff_append.2 ⟨(entryEligible_iff p e).2 he, before, after, h, fun x hx => by
    simpa using mt (entryEligible_iff p x).1 (hbefore x hx)⟩

theorem nextGrant_none {p : Part} (h : ∀ e ∈ p.bus.ring, ¬ MayGo p e) : nextGrant p = none :=
  List.find?_eq_none.2 fun e he => mt (entryEligible_iff p e).1 (h e (mem_ringFrom he))

/-! ## What a grant does -/

theorem grantReady_iff (p : Part) : grantReady p = true ↔ p.bus.turn = .none ∧ p.bus.pause = none ∧
    (p.bus.list = [] ∨ p.bus.afterRound = true) := by
  simp only [grantReady, Bool.and_eq_true, decide_eq_true_eq, Option.isNone_iff_eq_none, Bool.or_eq_true,
    List.isEmpty_iff, and_assoc]

/-- The entries that have had a grant without a block, with `e` (R110). -/
def seenWith (bus : Bus) (e : RingEntry) : List RingEntry :=
  if e ∈ bus.fruitless then bus.fruitless else bus.fruitless ++ [e]

theorem seenWith_test (bus : Bus) (e : RingEntry) :
    (if bus.fruitless.contains e = true then bus.fruitless else bus.fruitless ++ [e]) = seenWith bus e :=
  if_congr List.contains_iff_mem rfl rfl

theorem pauses_test (p : Part) (seen : List RingEntry) :
    (anyEligible p && (p.bus.ring.filter (entryEligible p)).all fun x => seen.contains x) = true ↔
      (∃ r ∈ p.bus.ring, MayGo p r) ∧ ∀ r ∈ p.bus.ring, MayGo p r → r ∈ seen := by
  simp only [anyEligible, Bool.and_eq_true, List.any_eq_true, List.all_eq_true, List.mem_filter, entryEligible_iff,
    List.contains_iff_mem, and_imp]

/-- R110: the pause begins once every eligible entry has had a grant without a block. -/
theorem endFruitless_pauses {p : Part} {e : RingEntry} (hany : ∃ r ∈ p.bus.ring, MayGo p r)
    (hall : ∀ r ∈ p.bus.ring, MayGo p r → r ∈ seenWith p.bus e) :
    endFruitless e p = { p with bus := { p.bus with turn := .none, pause := some 1, fruitless := [] } } := by
  simp only [endFruitless, seenWith_test]
  exact if_pos ((pauses_test ..).2 ⟨hany, hall⟩)

theorem endFruitless_counts {p : Part} {e : RingEntry} (h : ∃ r ∈ p.bus.ring, MayGo p r ∧ r ∉ seenWith p.bus e) :
    endFruitless e p = { p with bus := { p.bus with turn := .none, fruitless := seenWith p.bus e } } := by
  simp only [endFruitless, seenWith_test]
  obtain ⟨r, hr, hgo, hnot⟩ := h
  exact if_neg fun htest => hnot (((pauses_test ..).1 htest).2 r hr hgo)

/-- R124: a yield starts the stall timer. -/
def Session.yielded (p : Part) (x : Session) : Session :=
  if x.stall = none ∧ x.laggardPoll = false then { x with stall := some (p.engine.settings.stallTime * 250) } else x

theorem sessionYielded_eq {p : Part} {n : SessionNum} {x : Session} (hx : p.engine.sessions[n] = some x) :
    sessionYielded n p = setSession n (some (x.yielded p)) p := by
  simp only [sessionYielded, modSession_some hx, Session.yielded, Bool.and_eq_true, Option.isNone_iff_eq_none,
    Bool.not_eq_true']
  rfl

theorem yielded_keeps (p : Part) (x : Session) : (x.yielded p).state = x.state ∧ (x.yielded p).cursor = x.cursor ∧
    (x.yielded p).primeCount = x.primeCount ∧ (x.yielded p).blockCount = x.blockCount := by
  unfold Session.yielded
  split
  · exact ⟨rfl, rfl, rfl, rfl⟩
  · exact ⟨rfl, rfl, rfl, rfl⟩

/-- The bus as entry `e` is granted, its listeners or talker addressed (R92, R108). -/
def grantedBus (bus : Bus) (e : RingEntry) (need : Addressing) : Bus :=
  { bus with
    position := some e, afterRound := false, addressing := need, sent := addressCommands bus.addressing need }

/-- The part as entry `e` is granted. -/
def granted (e : RingEntry) (need : Addressing) (p : Part) : Part := { p with bus := grantedBus p.bus e need }

theorem mayGo_granted (e : RingEntry) (need : Addressing) (p : Part) (r : RingEntry) :
    MayGo (granted e need p) r ↔ MayGo p r := by
  cases r <;> exact Iff.rfl

/-- R108: READY high offers the block at the cursor. -/
theorem grantBroadcast_offers {n : SessionNum} {x : Session} {y : Slot} {s : State} (hy : s.part.slots[x.slot] = some y)
    (hin : y.inMemory = true) :
    grantBroadcast n x true s = .next { s with
      part := setTurn (.block n true x.cursor (imageBlock s.mem y x.cursor))
        (granted (.broadcast n) (.listeners (listenersOf x)) s.part) } := by
  have hslot : (address (.listeners (listenersOf x)) (takePosition (.broadcast n) s.part)).slots[x.slot] = some y := hy
  simp only [grantBroadcast, hslot, hin]
  rfl

/-- R108: READY low makes the session yield. -/
theorem grantBroadcast_yields {n : SessionNum} {x : Session} {s : State} (hx : s.part.engine.sessions[n] = some x) :
    grantBroadcast n x false s = .next { s with
      part := endFruitless (.broadcast n) (setSession n (some (x.yielded s.part))
        (granted (.broadcast n) (.listeners (listenersOf x)) s.part)) } := by
  have hyielded := sessionYielded_eq (p := granted (.broadcast n) (.listeners (listenersOf x)) s.part) hx
  exact congrArg (fun q => Host.Outcome.next { s with part := endFruitless (.broadcast n) q }) hyielded

theorem makeGrant_readback {k : PlaceNum} {r : Readback} {s : State} (hr : s.part.verifier.places[k] = some r)
    (ready : Bool) : makeGrant (.readback k) ready s = grantReadback k r s := by
  simp only [makeGrant, hr]

/-- A grant of a part that may look for one. -/
theorem execGrant_some {s : State} {e : RingEntry} (hheld : s.part.held = false) (hready : grantReady s.part = true)
    (he : nextGrant s.part = some e) (ready : Bool) : exec (.grant ready) s = makeGrant e ready s := by
  have hexec : exec (.grant ready) s = execGrant ready s := rfl
  rw [hexec, execGrant, hheld, hready, he]
  rfl

theorem happens_next {i : Instr} {s : State} {p : Part} (h : exec i s = .next { s with part := p }) : Happens i s p :=
  ⟨_, h, ⟨rfl, rfl, fun _ => rfl⟩, rfl, rfl⟩

/-- Settles O36: the first eligible entry of the ring, and the three ways its grant goes. -/
theorem grantGoesRoundTheRing : Obligations.GrantGoesRoundTheRing := by
  unfold Obligations.GrantGoesRoundTheRing
  intro ready s hheld hturn hpause hlist p bus mayGo
  have hready : grantReady p = true := (grantReady_iff p).2 ⟨hturn, hpause, hlist⟩
  have hmay : ∀ e, mayGo e ↔ MayGo p e := fun e => by cases e <;> exact Iff.rfl
  refine ⟨fun hnone => happens_next ?_, ?_⟩
  · have hexec : exec (.grant ready) s = execGrant ready s := rfl
    rw [hexec, execGrant, nextGrant_none fun e he => mt (hmay e).2 (hnone e he), ite_self]
  intro order before e after hnodup horder hsplit he hbefore takes
  have hfrom : ringFrom bus = before ++ e :: after := by
    rw [← hsplit]
    rcases horder with ⟨hposition, rfl⟩ | ⟨c, A, B, hposition, hring, rfl⟩
    · simp only [ringFrom, hposition]
    · exact ringFrom_split hnodup hposition hring
  have hnext : nextGrant p = some e :=
    nextGrant_some hfrom ((hmay e).1 he) fun x hx => mt (hmay x).2 (hbefore x hx)
  have hgrant := execGrant_some hheld hready hnext ready
  have hmem : e ∈ bus.ring := mem_ringFrom (hfrom ▸ List.mem_append_right _ List.mem_cons_self)
  refine ⟨?_, fun k r hk hr => happens_next ?_⟩
  · intro n x hn hx b
    subst hn
    have hgrant' : exec (.grant ready) s = grantBroadcast n x ready s := by
      simp only [hgrant, makeGrant, show s.part.engine.sessions[n] = some x from hx]
    refine ⟨fun y hhigh hy hin => happens_next ?_, fun hlow => ?_⟩
    · subst hhigh
      exact hgrant'.trans (grantBroadcast_offers hy (decide_eq_true hin))
    · subst hlow
      intro y seen yields
      let q := setSession n (some (x.yielded p)) (granted (.broadcast n) (.listeners (listenersOf x)) p)
      have hyields := hgrant'.trans (grantBroadcast_yields hx)
      obtain ⟨hstate, hcursor, hprime, hcount⟩ := yielded_keeps p x
      have hgo : ∀ r, MayGo q r ↔ mayGo r := fun r =>
        (mayGo_setSession (by exact hx) hstate hcursor hprime hcount r).trans
          ((mayGo_granted ..).trans (hmay r).symm)
      refine ⟨fun hall => happens_next (hyields.trans ?_), fun ⟨r, hr, hgoes, hnot⟩ => happens_next (hyields.trans ?_)⟩
      · have hpauses := endFruitless_pauses (p := q) (e := .broadcast n) ⟨_, hmem, (hgo _).2 he⟩
          fun r hr hgoes => hall r hr ((hgo r).1 hgoes)
        rw [hpauses, ← hturn]
        rfl
      · have hcounts := endFruitless_counts (p := q) (e := .broadcast n) ⟨r, hr, (hgo r).2 hgoes, hnot⟩
        rw [hcounts, ← hturn]
        rfl
  · subst hk
    exact hgrant.trans (makeGrant_readback hr ready)

end Sys2Proof.Machine
end

section
/-!
PROOFS. The completion of bus commands and messages (R93, R97, R99 to R102, R119, R123, R126, R127, R139).
-/

namespace Sys2Proof.Machine

/-! ## Sessions replaced -/

theorem put_put {α : Type} {n : Nat} (v : Vector α n) (i : Fin n) (x y : α) : put (put v i x) i y = put v i y := by
  simp [put]

theorem setSession_setSession (n : SessionNum) (x y : Option Session) (p : Part) :
    setSession n y (setSession n x p) = setSession n y p := by
  simp only [setSession, put_put]

theorem setSession_same {n : SessionNum} {x : Option Session} {p : Part} (h : p.engine.sessions[n] = x) :
    setSession n x p = p := by
  subst h
  simp only [setSession, put_self]

theorem setSession_get (n : SessionNum) (x : Option Session) (p : Part) :
    (setSession n x p).engine.sessions[n] = x := put_get_self ..

/-! ## Commands and messages off the bus -/

theorem itemOff_eq {p : Part} {c : Option Current} {rest : List Item} (h : p.bus.turn = .round c rest) :
    itemOff p = { p with bus := { p.bus with turn := .round none rest } } := by
  simp only [itemOff, h, Turn.rest]

/-- A command other than a STATUS READ has its effect, and the round goes on (R93). -/
theorem commandDone_effect {p : Part} {it : Item} {live : Bool} {c : BusCommand} {rest : List Item}
    (h : p.bus.turn = .round (some ⟨it, live, .command c⟩) rest) (hit : ∀ b polled, it ≠ .statusRead b polled)
    (lanes : Lanes) (attn : Bool) :
    commandDone lanes attn p = goOn (settle (commandEffect it live lanes attn
      { p with bus := { p.bus with turn := .round none rest } })) := by
  rw [← itemOff_eq h]
  cases it with
  | statusRead b polled => exact absurd rfl (hit b polled)
  | prepare | go | close | readyPoll | clear | clearAll | servicePoll | readback => simp only [commandDone, h]

theorem commandDone_statusRead {p : Part} {b : BayNum} {polled live : Bool} {c : BusCommand} {rest : List Item}
    (h : p.bus.turn = .round (some ⟨.statusRead b polled, live, .command c⟩) rest) (lanes : Lanes) (attn : Bool) :
    commandDone lanes attn p =
      { p with bus := { p.bus with turn := .round (some ⟨.statusRead b polled, live, .record⟩) rest } } := by
  simp only [commandDone, h]
  rfl

/-- A message tells its owner, and the round goes on (R97). -/
theorem messageDone_sent {p : Part} {it : Item} {live : Bool} {offer : Offer} {rest : List Item}
    (h : p.bus.turn = .round (some ⟨it, live, offer⟩) rest) (hcommand : ∀ c, offer ≠ .command c)
    (hrecord : offer ≠ .record) :
    messageDone p = goOn (if live then messageSent it { p with bus := { p.bus with turn := .round none rest } } else
      { p with bus := { p.bus with turn := .round none rest } }) := by
  rw [← itemOff_eq h]
  simp only [messageDone, h]

/-- R100: no lane read true. -/
theorem pollResult_none {lanes : Lanes} (h : ∀ b : BayNum, lanes.getLsbD b.val = false) (attn : Bool) (p : Part) :
    pollResult lanes attn p = if attn then { p with bus := { p.bus with holdOff := some 100 } } else p := by
  have hflagged : flaggedBays lanes = [] := List.filter_eq_nil_iff.2 fun b _ => by simp [h b]
  simp only [pollResult, hflagged, List.isEmpty_nil, if_true]

/-- R101: the reads of the bays whose lanes read true replace those that wait. -/
theorem pollResult_some {lanes : Lanes} (h : ∃ b : BayNum, lanes.getLsbD b.val = true) {attn : Bool} {p : Part} :
    pollResult lanes attn p = { p with bus := { p.bus with
      list := p.bus.list.filter fun i => !(flaggedBays lanes).any fun b => i.reads b
      turn := .round none ((flaggedBays lanes).map (fun b => .statusRead b true) ++
        p.bus.turn.rest.filter fun i => !(flaggedBays lanes).any fun b => i.reads b) } } := by
  obtain ⟨b, hb⟩ := h
  have hflagged : flaggedBays lanes ≠ [] := List.ne_nil_of_mem (List.mem_filter.2 ⟨List.mem_finRange b, hb⟩)
  simp only [pollResult, isEmpty_of_ne hflagged, Bool.false_eq_true, if_false]

/-! ## The owners (R123, R126) -/

theorem ask_close (n : SessionNum) (p : Part) :
    ask (.close n) p = { p with bus := { p.bus with list := p.bus.list ++ [.close n] } } := rfl

/-- R124: the session is CLOSING, off the ring, and CLOSE is asked for. -/
theorem beginClosing_eq {n : SessionNum} {x : Session} {p : Part} (hx : p.engine.sessions[n] = some x) :
    beginClosing n p = ask (.close n) (leaveRing (.broadcast n)
      (setSession n (some { x with state := .closing, stall := none, laggardPoll := false }) p)) := by
  simp only [beginClosing, modSession_some hx]

/-- R139: the readback joins the ring and its silence timer starts. -/
theorem readbackSent_eq {k : PlaceNum} {r : Readback} {p : Part} (hr : p.verifier.places[k] = some r) :
    readbackSent k p = { p with
      verifier := { p.verifier with
        places := put p.verifier.places k (some { r with sent := true, silence := some 10000 }) }
      bus := { p.bus with
        ring := if .readback k ∈ p.bus.ring then p.bus.ring else p.bus.ring ++ [.readback k], fruitless := [] } } := by
  simp only [readbackSent, hr, enterRing, List.contains_iff_mem]
  rfl

theorem goSent_priming {n : SessionNum} {x : Session} {p : Part} (hx : p.engine.sessions[n] = some x)
    (hstate : x.state = .priming) :
    goSent n p = if x.cursor = x.blockCount then
        ask (.close n) (leaveRing (.broadcast n)
          (setSession n (some { x with state := .closing, stall := none, laggardPoll := false }) p))
      else setSession n (some { x with state := .streaming }) p := by
  simp only [goSent, hx, hstate, if_true, beginClosing_eq (setSession_get ..), setSession_setSession]

/-- R126: the poll still stands. -/
def PollStands (x : Session) : Prop := x.laggardPoll = true ∧ (x.state = .priming ∨ x.state = .streaming)

theorem laggardResult_quiet {n : SessionNum} {x : Session} {p : Part} (hx : p.engine.sessions[n] = some x)
    (h : ¬ PollStands x) (lanes : Lanes) :
    laggardResult n lanes p = setSession n (some { x with laggardPoll := false }) p := by
  simp only [laggardResult, hx, modSession_some hx]
  refine if_neg ?_
  simpa only [PollStands, Bool.and_eq_true, Bool.or_eq_true, decide_eq_true_eq] using h

theorem notReady_eq (x : Session) (lanes : Lanes) :
    notReady x lanes = (x.members.filter fun m => lanes.getLsbD m.bay.val = false).map (·.bay) := by
  simp only [notReady, List.filter_map]
  congr 1
  refine List.filter_congr fun m _ => ?_
  simp

/-- R126: the laggards are dropped, and the stall timer of a session with members left starts afresh. -/
theorem laggardResult_stands {n : SessionNum} {x y : Session} {p q : Part} {lanes : Lanes}
    (hx : p.engine.sessions[n] = some x) (h : PollStands x)
    (hq : q = dropMembers n .laggard true (notReady x lanes)
      (setSession n (some { x with laggardPoll := false }) p)) (hy : q.engine.sessions[n] = some y) :
    laggardResult n lanes p = reap n (if y.members = [] then q else
      setSession n (some { y with stall := some (q.engine.settings.stallTime * 250) }) q) := by
  have htest : (x.laggardPoll && (decide (x.state = .priming) || decide (x.state = .streaming))) = true := by
    simpa only [PollStands, Bool.and_eq_true, Bool.or_eq_true, decide_eq_true_eq] using h
  simp only [laggardResult, hx, modSession_some hx, htest, if_true, ← hq, modSession_some hy]
  by_cases hmembers : y.members = []
  · simp only [hmembers, List.isEmpty_nil, if_true, setSession_same hy]
  · simp only [isEmpty_of_ne hmembers, Bool.false_eq_true, if_false, if_neg hmembers]
    rfl

theorem reap_members {n : SessionNum} {y : Session} {p : Part} (hy : p.engine.sessions[n] = some y)
    (h : y.members ≠ []) : reap n p = p := by
  refine if_neg ?_
  simp only [isEmptySession, hy, isEmpty_of_ne h, Bool.false_eq_true, not_false_eq_true]

/-- Settles O37: commands, messages, their owners, and the next item. -/
theorem busItemsComplete : Obligations.BusItemsComplete := by
  unfold Obligations.BusItemsComplete
  refine ⟨?_, ?_, ?_, fun p => ?_⟩
  · intro lanes attn it live c rest s hheld hturn q ends
    have both : ∀ {r}, commandDone lanes attn s.part = r →
        HappensSampling (.busCommandTaken lanes attn) s { s.pins with attn := attn } r ∧
        HappensSampling (.busCommandLimit lanes attn) s { s.pins with attn := attn } r := fun h =>
      ⟨event_happensSampling_of hheld rfl h, event_happensSampling_of hheld rfl h⟩
    have effect : ∀ {r}, (∀ b polled, it ≠ .statusRead b polled) → commandEffect it live lanes attn q = r → ends r :=
      fun hit h => both ((commandDone_effect hturn hit lanes attn).trans (congrArg (fun r => goOn (settle r)) h))
    refine ⟨?_, fun b hit => effect (by simp [hit]) (by rw [hit]; rfl),
      fun hit => effect (by simp [hit]) (by rw [hit]; rfl),
      fun n hit hlive => effect (by simp [hit]) (by rw [hit, hlive]; rfl),
      fun n hit hlive => effect (by simp [hit]) (by rw [hit, hlive]; rfl), fun n hit hlive => ?_, fun hit => ?_⟩
    · intro b polled hit awaits
      subst hit
      exact both (commandDone_statusRead hturn lanes attn)
    · rcases hit with hit | hit
      · exact effect (by simp [hit]) (by rw [hit, hlive]; rfl)
      · exact effect (by simp [hit]) (by rw [hit, hlive]; rfl)
    · have poll : ∀ {r}, pollResult lanes attn q = r → ends r := fun h => effect (by simp [hit]) (by rw [hit]; exact h)
      refine ⟨fun hnone => ⟨fun hattn => poll ?_, fun hattn => poll ?_⟩, fun hsome => ?_⟩
      · rw [pollResult_none hnone, if_pos hattn]
      · rw [pollResult_none hnone, hattn]; rfl
      · intro flagged other
        exact poll (pollResult_some hsome)
  · intro it live offer rest s hheld hturn hcommand hrecord q ends holds
    have both : ∀ {r}, (if live then messageSent it q else q) = r → ends r := fun h =>
      ⟨event_happens_of hheld rfl ((messageDone_sent hturn hcommand hrecord).trans (congrArg goOn h)),
        event_happens_of hheld rfl ((messageDone_sent hturn hcommand hrecord).trans (congrArg goOn h))⟩
    refine ⟨fun hlive => both (if_neg (by simp [hlive])), fun n x hit hlive hx hstate => both ((if_pos hlive).trans ?_),
      fun n x hit hlive hx hstate => both ((if_pos hlive).trans ?_),
      fun k r hit hlive hr => both ((if_pos hlive).trans ?_)⟩
    · rw [hit, messageSent, modSession_some hx, if_pos hstate]
      rfl
    · rw [hit, messageSent, modSession_some hx, if_pos hstate]
      rfl
    · rw [hit, messageSent, readbackSent_eq hr]
  · intro n x lanes p hx holds
    refine ⟨fun hstate => ?_, fun hstate hcursor => ?_, ?_, ?_⟩
    · simp only [goSent, hx, if_neg hstate]
    · exact (goSent_priming hx hstate).trans (if_neg hcursor)
    · intro hstate hcursor q
      exact (goSent_priming hx hstate).trans (if_pos hcursor)
    · intro stands quiet
      refine ⟨fun h => laggardResult_quiet hx h lanes, fun h => ?_⟩
      intro late q y hy
      have hq : q = dropMembers n .laggard true (notReady x lanes)
          (setSession n (some { x with laggardPoll := false }) p) := by rw [notReady_eq]; rfl
      have hresult := laggardResult_stands hx h hq hy
      refine ⟨fun hmembers => ?_, fun hmembers => ?_⟩
      · rw [hresult, if_pos hmembers]
      · rw [hresult, if_neg hmembers, reap_members (setSession_get ..) (by exact hmembers)]
        rfl
  · intro bus
    refine ⟨fun skipped it rest need offer hitems hskipped hit => ?_, fun hskipped => nextItem_over hskipped⟩
    rw [goOn, hitems, nextItem_first hskipped hit]
    cases need with
    | none => rfl
    | some a => rfl

end Sys2Proof.Machine
end

section
/-!
PROOFS. The ends of block transfers, and the ring as an entry leaves it (R96, R98, R106, R108 to R110, R124, R140).
-/

namespace Sys2Proof.Machine

/-! ## An accepted block (R124) -/

/-- The record of a session whose block was accepted. -/
def Session.accepted (stall : Nat) (x : Session) : Session :=
  { x with cursor := x.cursor + 1, stall := some stall, laggardPoll := false }

theorem sessionAccepted_priming {n : SessionNum} {x : Session} {p : Part} (hx : p.engine.sessions[n] = some x)
    (hstate : x.state = .priming) :
    sessionAccepted n p = if x.primeCount = some (x.cursor + 1) then
        ask (.go n) (setSession n (some { x.accepted (stallMs p) with stall := none }) p)
      else setSession n (some (x.accepted (stallMs p))) p := by
  simp only [sessionAccepted, hx, hstate, modSession_some (setSession_get ..), setSession_setSession, Session.accepted]

theorem sessionAccepted_streaming {n : SessionNum} {x : Session} {p : Part} (hx : p.engine.sessions[n] = some x)
    (hstate : x.state = .streaming) :
    sessionAccepted n p = if x.cursor + 1 = x.blockCount then
        ask (.close n) (leaveRing (.broadcast n)
          (setSession n (some { x.accepted (stallMs p) with state := .closing, stall := none }) p))
      else setSession n (some (x.accepted (stallMs p))) p := by
  simp only [sessionAccepted, hx, hstate, beginClosing_eq (setSession_get ..), setSession_setSession,
    Session.accepted]

/-! ## The ring (R106) -/

/-- An entry that leaves the ring leaves the others in their order, and the position moves back. -/
theorem leaveRing_split {e : RingEntry} {A B : List RingEntry} {p : Part} (hnodup : p.bus.ring.Nodup)
    (hring : p.bus.ring = A ++ e :: B) :
    leaveRing e p = { p with bus := { p.bus with
      ring := A ++ B
      position := if p.bus.position = some e then (B ++ A).getLast? else p.bus.position } } := by
  rw [hring] at hnodup
  have hA : ∀ x ∈ A, decide (x ≠ e) = true := fun x hx =>
    decide_eq_true fun h => (List.nodup_append.1 hnodup).2.2 x hx e List.mem_cons_self h
  have hB : ∀ x ∈ B, decide (x ≠ e) = true := fun x hx =>
    decide_eq_true fun h => (List.nodup_cons.1 (List.nodup_append.1 hnodup).2.1).1 (h ▸ hx)
  have hleft : (A ++ e :: B).filter (· ≠ e) = A ++ B := by
    rw [List.filter_append, List.filter_cons, List.filter_eq_self.2 hA, List.filter_eq_self.2 hB]
    simp
  have htake : (A ++ e :: B).takeWhile (· ≠ e) = A := by
    rw [List.takeWhile_append_of_pos hA]
    simp
  have hbefore : entryBefore (A ++ e :: B) e = (B ++ A).getLast? := by
    simp only [entryBefore, htake, hleft]
    cases hlast : A.getLast? with
    | none =>
      have hnil : A = [] := List.getLast?_eq_none_iff.1 hlast
      simp [hnil]
    | some x => simp [List.getLast?_append, hlast]
  simp only [leaveRing, hring, hleft, hbefore]

theorem leaveRing_absent {e : RingEntry} {p : Part} (he : e ∉ p.bus.ring) (hposition : p.bus.position ≠ some e) :
    leaveRing e p = p := by
  have hsame : p.bus.ring.filter (· ≠ e) = p.bus.ring :=
    List.filter_eq_self.2 fun x hx => decide_eq_true fun h => he (h ▸ hx)
  simp only [leaveRing, hsame, if_neg hposition]

/-- Settles O38: what each end of a transfer tells, and the ring. -/
theorem blockTransfersEnd : Obligations.BlockTransfersEnd := by
  unfold Obligations.BlockTransfersEnd
  refine ⟨?_, ?_, fun e A B p => leaveRing_split, fun e p => leaveRing_absent, fun e p => ?_⟩
  · intro n live index data s hheld hturn p moved stall holds
    have hturn' : p.bus.turn = .block n live index data := hturn
    have accepts : ∀ {q}, (if live then sessionAccepted n moved else moved) = q → Happens .blockAccepted s q := by
      intro q h
      refine event_happens_of (f := blockAccepted) hheld rfl (Eq.trans ?_ h)
      simp only [blockAccepted, hturn]
      rfl
    have abandons : ∀ {q}, (if live then endFruitless (.broadcast n) (sessionYielded n p) else setTurn .none p) = q →
        Happens .blockAbandoned s q := by
      intro q h
      refine event_happens_of (f := blockAbandoned) hheld rfl (Eq.trans ?_ h)
      simp only [blockAbandoned, hturn]
      rfl
    refine ⟨fun hlive => ⟨accepts (if_neg (by simp [hlive])), abandons (if_neg (by simp [hlive]))⟩,
      fun x hlive hx => ?_⟩
    intro y
    have accepted : ∀ {q}, sessionAccepted n moved = q → Happens .blockAccepted s q := fun h =>
      accepts ((if_pos hlive).trans h)
    refine ⟨fun hstate hprime => accepted ?_, fun hstate hprime => accepted ?_, fun hstate hcursor => accepted ?_,
      ?_, ?_⟩
    · exact (sessionAccepted_priming (p := moved) hx hstate).trans (if_neg hprime)
    · exact (sessionAccepted_priming (p := moved) hx hstate).trans (if_pos hprime)
    · exact (sessionAccepted_streaming (p := moved) hx hstate).trans (if_neg hcursor)
    · intro hstate hcursor q
      exact accepted ((sessionAccepted_streaming (p := moved) hx hstate).trans (if_pos hcursor))
    · intro z
      refine abandons ((if_pos hlive).trans ?_)
      rw [sessionYielded_eq (p := p) hx]
      rfl
  · intro k live data trailer s hheld hturn hlen p moved
    have takes : ∀ {q}, (if live then handBlock k ⟨data, trailer⟩ moved else moved) = q →
        Happens (.readbackBlockTaken data trailer) s q := by
      intro q h
      refine event_happens_of (f := fun p =>
        if data.length = Config.blockBytes then readbackTaken ⟨data, trailer⟩ p else p) hheld rfl (Eq.trans ?_ h)
      rw [if_pos (by exact hlen)]
      simp only [readbackTaken, hturn]
      rfl
    have empties : ∀ {q}, (if live then endFruitless (.readback k) p else setTurn .none p) = q →
        Happens .readbackTurnEmpty s q := by
      intro q h
      refine event_happens_of (f := turnEmpty) hheld rfl (Eq.trans ?_ h)
      simp only [turnEmpty, hturn]
      rfl
    refine ⟨fun hlive => ⟨takes (if_neg (by simp [hlive])), empties (if_neg (by simp [hlive]))⟩,
      fun hlive => empties (if_pos hlive), fun r hlive hr => takes ((if_pos hlive).trans ?_)⟩
    have hr' : moved.verifier.places[k] = some r := hr
    simp only [handBlock, hr']
    rfl
  · intro seen due
    have htest : (anyEligible p && (p.bus.ring.filter (entryEligible p)).all fun x => (seenWith p.bus e).contains x) =
        true ↔ due := by
      simp only [pauses_test, ← entryEligible_iff]
      exact Iff.rfl
    refine ⟨fun h => ?_, fun h => ?_⟩
    · simp only [endFruitless, seenWith_test]
      exact if_pos (htest.2 h)
    · simp only [endFruitless, seenWith_test]
      exact if_neg (mt htest.1 h)

end Sys2Proof.Machine
end

section
/-!
PROOFS. The ends of status reads (R70, R78 to R82, R102).
-/

namespace Sys2Proof.Machine

/-! ## A record that is taken (R78, R79) -/

/-- The bay record that a status record leaves, but for the housekeeping timer (R78). -/
def Bay.recorded (r : StatusRecord) (x : Bay) : Bay :=
  { x with
    present := true, state := if x.present then x.state else .empty, probe := if x.present then x.probe else none
    temperature := some (clampTemp r.temperature)
    capability := capabilityOf r
    errorCode := match r.errorCode with
      | some e => some e.toNat
      | none => x.errorCode }

theorem modBay_congr {b : BayNum} {f g : Bay → Bay} {p : Part} (h : f p.bays[b] = g p.bays[b]) :
    modBay b f p = modBay b g p := by
  simp only [modBay, h]

theorem modBay_eq {b : BayNum} {f : Bay → Bay} {p : Part} {B : Vector Bay 10} {y : Bay} (hbays : p.bays = B)
    (hy : f B[b] = y) : modBay b f p = { p with bays := put B b y } := by
  subst hbays hy
  rfl

theorem modBay_modBay (b : BayNum) (f g : Bay → Bay) (p : Part) :
    modBay b g (modBay b f p) = modBay b (fun x => g (f x)) p := by
  simp only [modBay, put_get_self, put_put]

theorem raiseIf_modBay (c : Bool) (flag : Flag) (b : BayNum) (f : Bay → Bay) (p : Part) :
    raiseIf c flag (modBay b f p) = modBay b f (raiseIf c flag p) := by
  cases c
  · rfl
  · rfl

/-- A sample of a bay does not read or write the bay records. -/
theorem sampleBay_bays (b : BayNum) (v : Int) (p : Part) (f : Bay → Bay) :
    sampleBay b v (modBay b f p) = modBay b f (sampleBay b v p) := by
  exact raiseIf_modBay (rises p.thermal.bays[b].condition (p.thermal.bays[b].sample p.thermal.limits.bay v).condition)
    .thermal b f { p with thermal := { p.thermal with
      bays := put p.thermal.bays b (p.thermal.bays[b].sample p.thermal.limits.bay v) } }

theorem sampleBay_bay (b : BayNum) (v : Int) (p : Part) : (sampleBay b v p).bays = p.bays := by
  simp only [sampleBay_keeps]

theorem readWaiting_keeps {b : BayNum} {p q : Part} (h : q.bus = p.bus) : readWaiting q b = readWaiting p b := by
  simp only [readWaiting, waitingItems, h]

theorem restartHousekeeping_eq (b : BayNum) (p : Part) :
    restartHousekeeping b p =
      modBay b (fun x => { x with housekeeping := if readWaiting p b then none else some 5000 }) p := by
  unfold restartHousekeeping
  split
  · rfl
  · rfl

theorem takeRecord_eq (b : BayNum) (r : StatusRecord) (p : Part) :
    takeRecord b r p = modBay b (fun x => { x.recorded r with
        housekeeping := if x.present = true ∧ readWaiting p b = true then none else some 5000 })
      (sampleBay b r.temperature (if p.bays[b].present then p else raise .bay p)) := by
  cases hpresent : p.bays[b].present with
  | true =>
    have hwaits : ∀ f : Bay → Bay, readWaiting (modBay b f (sampleBay b r.temperature p)) b = readWaiting p b :=
      fun f => readWaiting_keeps (by simp only [modBay_keeps, sampleBay_keeps])
    simp only [takeRecord, hpresent, if_true, sampleBay_bays, restartHousekeeping_eq, hwaits, modBay_modBay]
    refine modBay_congr ?_
    simp only [sampleBay_bay, Bay.recorded, hpresent, if_true, true_and] <;> rfl
  | false =>
    simp only [takeRecord, hpresent, Bool.false_eq_true, if_false]
    have hraise : ∀ f : Bay → Bay, raise .bay (modBay b f p) = modBay b f (raise .bay p) := fun f => rfl
    simp only [hraise, sampleBay_bays, startHousekeeping, modBay_modBay]
    refine modBay_congr ?_
    have hbay : (sampleBay b r.temperature (raise .bay p)).bays[b].present = false := by
      rw [sampleBay_bay]; exact hpresent
    simp only [Bay.recorded, hbay, Bool.false_eq_true, if_false, false_and] <;> rfl

/-! ## A read that goes unanswered (R80, R81) -/

theorem judgeSilence_absent {b : BayNum} {p : Part} (h : p.bays[b].present = false) :
    judgeSilence b p = modBay b (fun x => { x with probe := some 5000 }) p := by
  simp only [judgeSilence, h]
  rfl

theorem judgeSilence_empty {b : BayNum} {p : Part} (h : p.bays[b].present = true) (hempty : p.bays[b].state = .empty) :
    judgeSilence b p = raise .bay (modBay b (fun x =>
      { x with present := false, state := .offline, housekeeping := none, probe := some 5000 }) p) := by
  simp only [judgeSilence, h, hempty, startProbe, Bool.not_true, Bool.false_eq_true, if_false, if_true]
  have hraise : ∀ f q, modBay b f (raise .bay q) = raise .bay (modBay b f q) := fun _ _ => rfl
  rw [hraise, modBay_modBay]

theorem judgeSilence_holds {b : BayNum} {p : Part} (h : p.bays[b].present = true) (hstate : p.bays[b].state ≠ .empty) :
    judgeSilence b p = modBay b (fun x =>
      { x with housekeeping := if readWaiting p b then none else some 5000 }) p := by
  simp only [judgeSilence, h, hstate, Bool.not_true, Bool.false_eq_true, if_false, restartHousekeeping_eq]

/-! ## The round goes on -/

theorem readOver_eq {b : BayNum} {p : Part} {c : Option Current} {rest : List Item} (h : p.bus.turn = .round c rest) :
    readOver b p = { p with bus := { p.bus with turn := .round none rest, addressing := .talker b } } := by
  simp only [readOver, itemOff, h, Turn.rest]

/-- R100, R101: the poll wanted condition is judged at the end of the last read of a poll. -/
theorem afterRead_eq (polled attn : Bool) (u : Part) :
    afterRead polled attn u =
      goOn (if polled = true ∧ (∀ c, .statusRead c true ∉ u.bus.turn.rest) then judgePoll attn u else u) := by
  have hlast : (polled && !u.bus.turn.rest.any Item.polledRead) = true ↔
      polled = true ∧ ∀ c, .statusRead c true ∉ u.bus.turn.rest := by
    rw [Bool.and_eq_true, Bool.not_eq_true', List.any_eq_false]
    refine and_congr_right fun _ => ⟨fun h c hc => h _ hc rfl, fun h it hit hpolled => ?_⟩
    obtain ⟨c, rfl⟩ := polledRead_iff.1 hpolled
    exact h c hit
  simp only [afterRead, hlast]

/-- R79: the timer of a bay whose read has ended. -/
theorem timer_eq {waits : Prop} [Decidable waits] {timer : Option Nat} (hwaits : waits → timer = none)
    (hfree : ¬ waits → timer = some 5000) : (if waits then none else some 5000) = timer := by
  split
  · next h => exact (hwaits h).symm
  · next h => exact (hfree h).symm

theorem settleSpeed_eq (v : Byte) : settleSpeed v = if 48 < v.toNat then 48 else v.toNat := by
  unfold settleSpeed
  split <;> omega

/-- Settles O39: the bay manager, the census of the bay, the engine, then the round. -/
theorem statusReadsEnd : Obligations.StatusReadsEnd := by
  unfold Obligations.StatusReadsEnd
  refine ⟨?_, ?_, fun b p => rfl⟩
  · intro r attn b polled live rest s hheld hturn q x speed y waits t goesOn timer hwaits hfree taken
    have hwaiting : readWaiting q b = true ↔ waits := readWaiting_iff q b
    have hy : x.recorded r = y := by
      simp only [Bay.recorded, capabilityOf, settleSpeed_eq]
      rfl
    have htimer : (if x.present = true ∧ readWaiting q b = true then none else some 5000) = timer :=
      timer_eq (fun h => hwaits h.1 (hwaiting.1 h.2)) fun h =>
        hfree ((not_and_or.1 h).imp Bool.eq_false_iff.2 (mt hwaiting.2))
    have htaken : takeRecord b r q = taken := by
      have hbays : t.bays = s.part.bays := by
        simp only [t, sampleBay_bay]
        split
        · rfl
        · rfl
      have hbay : ({ x.recorded r with
          housekeeping := if x.present = true ∧ readWaiting q b = true then none else some 5000 } : Bay) =
            { y with housekeeping := timer } := by rw [hy, htimer]
      exact (takeRecord_eq b r q).trans (modBay_eq (p := t) hbays hbay)
    have hdisc : judgeDiscPresent b r taken =
        if r.discPresent = true ∧ y.state = .empty then orphanInBay b taken else taken := by
      have hbay : taken.bays[b] = { y with housekeeping := timer } := put_get_self ..
      have hstate : taken.bays[b].state = y.state := by rw [hbay]
      simp only [judgeDiscPresent, hstate, Bool.and_eq_true, decide_eq_true_eq]
    have hanswered : readAnswered r attn s.part = afterRead polled attn (settle (engineRecord b r
        (if r.discPresent = true ∧ y.state = .empty then orphanInBay b taken else taken))) := by
      rw [← hdisc, ← htaken]
      simp only [readAnswered, hturn, readOver_eq hturn]
      rfl
    exact event_happensSampling_of hheld rfl (hanswered.trans (afterRead_eq ..))
  · intro attn b polled live rest s hheld hturn q x waits timer hwaits hfree becomes goesOn
    have hwaiting : readWaiting q b = true ↔ waits := readWaiting_iff q b
    have goes : ∀ {v}, judgeSilence b q = v → goesOn v := by
      rintro _ rfl
      refine event_happensSampling_of (f := readUnanswered attn) hheld rfl (Eq.trans ?_ (afterRead_eq ..))
      simp only [readUnanswered, hturn, readOver_eq hturn]
      rfl
    refine ⟨fun h => goes (judgeSilence_absent h), fun h hempty => goes (judgeSilence_empty h hempty),
      fun h hstate => goes ((judgeSilence_holds (p := q) h hstate).trans ?_)⟩
    have htimer : (if readWaiting q b = true then none else some 5000) = timer :=
      timer_eq (fun h => hwaits (hwaiting.1 h)) fun h => hfree (mt hwaiting.2 h)
    rw [htimer]
    rfl

end Sys2Proof.Machine
end

section
/-!
PROOFS. The end of gathering, the members' discs, and pick prospects (R54, R117 to R120).
-/

namespace Sys2Proof.Machine

/-! ## Burning members (R119) -/

theorem discInBay_some {p : Part} {b : BayNum} {d : Disc} (hb : p.bays[b].disc = some d.id)
    (hd : findDisc p d.id = some d) : discInBay p b = some d := by
  simp only [discInBay, hb, Option.bind_some, hd]

/-- A disc in a bay enters a state: its record and the bay's. -/
theorem enterState_inBay {d : Disc} {b : BayNum} (hb : d.position = .bay b) (st : DiscState) (f : Disc → Disc)
    (p : Part) : enterState d st f p = { p with
      flow := { p.flow with discs := p.flow.discs.map fun x => if x.id = d.id then { f x with state := st } else x }
      bays := put p.bays b { p.bays[b] with
        state := if p.bays[b].present then bayStateOf st else p.bays[b].state } } := by
  simp only [enterState, followBay, hb]
  rfl

theorem burnMembers_loaded {n : SessionNum} {b : BayNum} {bs : List BayNum} {d : Disc} {p : Part}
    (hd : discInBay p b = some d) (h : d.state = .loaded) :
    burnMembers n (b :: bs) p =
      burnMembers n bs (enterState d .burning (fun x => { x with session := some n }) p) := by
  simp only [burnMembers, hd, h, if_true]

theorem burnMembers_notLoaded {n : SessionNum} {b : BayNum} {bs : List BayNum} {d : Disc} {p : Part}
    (hd : discInBay p b = some d) (h : d.state ≠ .loaded) : burnMembers n (b :: bs) p = burnMembers n bs p := by
  simp only [burnMembers, hd, if_neg h]

/-- Discs and bays do not depend on the session table. -/
theorem enterState_setSession (d : Disc) (st : DiscState) (f : Disc → Disc) (n : SessionNum) (x : Option Session)
    (p : Part) : enterState d st f (setSession n x p) = setSession n x (enterState d st f p) := by
  unfold enterState followBay
  split
  · rfl
  · rfl

theorem burnMembers_setSession (n m : SessionNum) (x : Option Session) (bs : List BayNum) (p : Part) :
    burnMembers n bs (setSession m x p) = setSession m x (burnMembers n bs p) := by
  induction bs generalizing p with
  | nil => rfl
  | cons b bs ih =>
    have hdisc : discInBay (setSession m x p) b = discInBay p b := rfl
    simp only [burnMembers, hdisc]
    split
    · split
      · rw [enterState_setSession, ih]
      · exact ih p
    · exact ih p

theorem enterState_capability (d : Disc) (st : DiscState) (f : Disc → Disc) (p : Part) (b : BayNum) :
    (enterState d st f p).bays[b].capability = p.bays[b].capability := by
  unfold enterState followBay
  split
  · next c _ =>
    by_cases hbc : b = c
    · subst hbc
      simp only [modBay_keeps, put_get_self, modDisc_keeps]
    · simp only [modBay_keeps, put_get_other _ _ _ _ hbc, modDisc_keeps]
  · rfl

theorem burnMembers_capability (n : SessionNum) (bs : List BayNum) (p : Part) (c : BayNum) :
    (burnMembers n bs p).bays[c].capability = p.bays[c].capability := by
  induction bs generalizing p with
  | nil => rfl
  | cons b bs ih =>
    simp only [burnMembers]
    rw [ih]
    split
    · split
      · exact enterState_capability ..
      · rfl
    · rfl

/-- The session speed depends on the bays' capabilities and on the temperatures alone (R120). -/
theorem sessionSpeed_congr {p q : Part} (hcapability : ∀ b : BayNum, q.bays[b].capability = p.bays[b].capability)
    (hthermal : q.thermal = p.thermal) (m : Media) (request : Nat) (bays : List BayNum) :
    sessionSpeed q m request bays = sessionSpeed p m request bays := by
  have hmember : memberSpeed q m = memberSpeed p m := funext fun b => by
    simp only [memberSpeed, hcapability, hthermal]
  simp only [sessionSpeed, hmember, hthermal]

/-! ## Leaving gathering (R119) -/

theorem leaveGathering_not {n : SessionNum} {x : Session} {p : Part} (hx : p.engine.sessions[n] = some x)
    (h : x.state ≠ .gathering) : leaveGathering n p = p := by
  simp only [leaveGathering, hx, if_neg h]

/-- The members whose bay is no longer capable of the session's media. -/
def unfitOf (p : Part) (x : Session) : List BayNum :=
  (x.members.filter fun m => p.bays[m.bay].capability.speed x.media = 0).map (·.bay)

theorem unfitOf_eq (p : Part) (x : Session) :
    (x.members.map (·.bay)).filter (fun b => !(p.bays[b].capability.capable x.media)) = unfitOf p x := by
  simp only [unfitOf, List.filter_map]
  congr 1
  refine List.filter_congr fun m _ => ?_
  simp only [Function.comp_apply, Capability.capable]
  generalize p.bays[m.bay].capability.speed x.media = v
  cases v
  · rfl
  · rfl

/-- The record of a session that leaves gathering with members. -/
def Session.leaving (r : Part) (y : Session) : Session :=
  { y with
    state := .preparing
    speed := some (sessionSpeed r y.media (speedRequest r y.job) (y.members.map (·.bay)))
    members := y.members.map fun m => { m with prepared := false } }

theorem leaveGathering_leaves {n : SessionNum} {x y : Session} {p q : Part} (hx : p.engine.sessions[n] = some x)
    (h : x.state = .gathering)
    (hq : q = dropMembers n .calibration false (unfitOf p x) (setSession n (some { x with gather := none }) p))
    (hy : q.engine.sessions[n] = some y) :
    leaveGathering n p = if y.members = [] then endSession n q else
      ask (.prepare n) (setSession n (some (y.leaving (burnMembers n (y.members.map (·.bay)) q)))
        (burnMembers n (y.members.map (·.bay)) q)) := by
  have hr : (burnMembers n (y.members.map (·.bay)) q).engine.sessions[n] = some y := by
    simp only [burnMembers_keeps, hy]
  simp only [leaveGathering, hx]
  rw [if_pos h, modSession_some hx, unfitOf_eq, ← hq]
  simp only [hy, modSession_some hr, List.isEmpty_iff]
  rfl

theorem leaveAndReap_eq (n : SessionNum) (p : Part) :
    leaveAndReap n p = if (leaveGathering n p).engine.sessions[n] = none then
      placeWaiting (leaveGathering n p).engine.waiting.length (leaveGathering n p) else leaveGathering n p := by
  simp only [leaveAndReap, Option.isNone_iff_eq_none]

/-! ## Pick prospects (R54, R118) -/

theorem pickOrder_eq_some {p : Part} {o : Order} : pickOrder p = some o ↔
    o.kind = .pick ∧ ∃ before after, p.flow.queue = before ++ o :: after ∧ ∀ x ∈ before, x.kind ≠ .pick := by
  simp only [pickOrder, List.find?_eq_some_iff_append, decide_eq_true_eq, Bool.not_eq_true', decide_eq_false_iff_not,
    ne_eq]

theorem jobOfOrder_eq_some {p : Part} {o : Order} {j : JobNum} :
    jobOfOrder p o = some j ↔ ∃ d, findDisc p o.disc = some d ∧ d.job = some j := by
  simp only [jobOfOrder, Option.bind_eq_some_iff]

theorem prospect_iff (p : Part) (j : JobNum) : prospect p j = true ↔
    (∃ o, pickOrder p = some o ∧ jobOfOrder p o = some j ∧ (p.flow.issued = some o ∨ eligible p o = true)) ∨
      p.flow.held = false ∧ p.thermal.ambient.condition ≠ .critical ∧ pickFor p j ≠ none := by
  unfold prospect
  rw [Bool.or_eq_true]
  refine or_congr ?_ ?_
  · cases pickOrder p with
    | none => simp
    | some o => simp [isIssued]
  · simp only [ambientCritical, Bool.and_eq_true, Bool.not_eq_true', decide_eq_false_iff_not,
      Option.isSome_iff_ne_none, and_assoc, ne_eq]

theorem prospectLost_iff (p : Part) (n : SessionNum) : prospectLost p n = true ↔
    ∃ x, p.engine.sessions[n] = some x ∧ x.state = .gathering ∧ prospect p x.job = false := by
  unfold prospectLost
  cases p.engine.sessions[n] with
  | none => simp
  | some x => simp

theorem judgeGathering_none {p : Part} (h : ∀ n, ¬ prospectLost p n = true) (k : Nat) : judgeGathering k p = p := by
  cases k with
  | zero => rfl
  | succ k => rw [judgeGathering, List.find?_eq_none.2 fun n _ => h n]

theorem judgeGathering_first {p : Part} {n : SessionNum} (h : prospectLost p n = true)
    (hbefore : ∀ m : SessionNum, m < n → ¬ prospectLost p m = true) (k : Nat) :
    judgeGathering (k + 1) p = judgeGathering k (leaveAndReap n p) := by
  rw [judgeGathering, find?_finRange h fun m hm => Bool.eq_false_iff.2 (hbefore m hm)]

/-- Settles O40: the end of gathering by its timer and by a lost prospect. -/
theorem gatheringEnds : Obligations.GatheringEnds := by
  unfold Obligations.GatheringEnds
  refine ⟨?_, ?_, ?_, fun p => ⟨fun j => ?_, ?_⟩⟩
  · intro n x s hheld hx p
    have expires : ∀ {q}, (if x.gather.isSome then settle (leaveAndReap n p) else p) = q →
        Happens (.gatherTimerExpiry n) s q := by
      intro q h
      refine event_happens_of (f := gatherExpires n) hheld rfl (Eq.trans ?_ h)
      simp only [gatherExpires, hx]
      rfl
    refine ⟨fun hnone => expires (if_neg (by simp [hnone])), fun hruns => expires (if_pos hruns),
      fun hruns hstate hmembers hcapable => ?_⟩
    intro bays request q y
    refine expires ((if_pos hruns).trans (congrArg settle ?_))
    let z : Session := { x with gather := none }
    have hunfit : unfitOf p x = [] :=
      List.map_eq_nil_iff.2 (List.filter_eq_nil_iff.2 fun m hm => by simpa only [decide_eq_true_eq] using hcapable m hm)
    have hleaves := leaveGathering_leaves (y := z) (q := setSession n (some z) p) hx hstate
      (by rw [hunfit]; rfl) (setSession_get ..)
    rw [if_neg (by exact hmembers), burnMembers_setSession, setSession_setSession] at hleaves
    have hengine : q.engine = p.engine := by simp only [q, burnMembers_keeps]
    have hbus : q.bus = p.bus := by simp only [q, burnMembers_keeps]
    have hrequest : speedRequest (setSession n (some z) q) x.job = request := by
      simp only [speedRequest, setSession_keeps, q, burnMembers_keeps]
      rfl
    have hspeed : sessionSpeed (setSession n (some z) q) x.media request bays = sessionSpeed p x.media request bays :=
      sessionSpeed_congr (fun b => burnMembers_capability n bays p b)
        (by simp only [burnMembers_keeps]) _ _ _
    have hy : z.leaving (setSession n (some z) q) = y := by
      simp only [Session.leaving, z, hrequest, y, ← hspeed]
      rfl
    have hleft : leaveGathering n p = ask (.prepare n) (setSession n (some y) q) :=
      hleaves.trans (congrArg (fun w => ask (.prepare n) (setSession n (some w) q)) hy)
    have hlives : (ask (.prepare n) (setSession n (some y) q)).engine.sessions[n] = some y := setSession_get ..
    have hreap : leaveAndReap n p = ask (.prepare n) (setSession n (some y) q) := by
      rw [leaveAndReap_eq, hleft, hlives, if_neg (Option.some_ne_none y)]
    rw [hreap, ← hengine, ← hbus]
    rfl
  · intro n x p hx holds
    refine ⟨leaveGathering_not hx, fun hstate => ?_⟩
    intro unfit q y hy
    have hleaves := leaveGathering_leaves hx hstate (q := q) rfl hy
    refine ⟨fun hmembers => hleaves.trans (if_pos hmembers), fun hmembers => ?_⟩
    intro bays r request
    exact hleaves.trans (if_neg hmembers)
  · refine fun n p => ⟨rfl, fun b bs d hb hd =>
      ⟨burnMembers_notLoaded (discInBay_some hb hd), fun hstate hposition => ?_⟩⟩
    rw [burnMembers_loaded (discInBay_some hb hd) hstate, enterState_inBay hposition]
    rfl
  · rw [prospect_iff]
    refine or_congr_left ?_
    simp only [pickOrder_eq_some, jobOfOrder_eq_some, eligible_iff]
    constructor
    · rintro ⟨o, ⟨hkind, before, after, hq, hbefore⟩, ⟨d, hd, hj⟩, hfree⟩
      refine ⟨before, o, after, d, hq, hkind, hbefore, hd, hj, hfree.imp_right ?_⟩
      rintro ⟨hheld, haccept, hreject, hambient⟩
      exact ⟨hheld, haccept, hreject, hambient hkind⟩
    · rintro ⟨before, o, after, d, hq, hkind, hbefore, hd, hj, hfree⟩
      refine ⟨o, ⟨hkind, before, after, hq, hbefore⟩, ⟨d, hd, hj⟩, hfree.imp_right ?_⟩
      rintro ⟨hheld, haccept, hreject, hambient⟩
      exact ⟨hheld, haccept, hreject, fun _ => hambient⟩
  · intro lost
    refine ⟨rfl, fun hnone k => judgeGathering_none (fun n => mt (prospectLost_iff p n).1 (hnone n)) k,
      fun n k hlost hbefore => judgeGathering_first ((prospectLost_iff p n).2 hlost)
        (fun m hm => mt (prospectLost_iff p m).1 (hbefore m hm)) k, fun n => ?_⟩
    intro q
    exact ⟨fun h => (leaveAndReap_eq n p).trans (if_pos h), fun h => (leaveAndReap_eq n p).trans (if_neg h)⟩

end Sys2Proof.Machine
end

section
/-!
PROOFS. The deadlines of a session, dropping members, and its end (R47, R83, R84, R117, R122, R128, R130, R131).
-/

namespace Sys2Proof.Machine

/-! ## Dropping a member (R130) -/

theorem dropMembers_foldl (n : SessionNum) (why : RejectReason) (clear : Bool) (bs : List BayNum) (p : Part) :
    dropMembers n why clear bs p = bs.foldl (fun q b => dropMember n b why clear q) p := by
  induction bs generalizing p with
  | nil => rfl
  | cons b bs ih => exact ih _

theorem askClear_eq (clear : Bool) (b : BayNum) (q : Part) :
    askClear clear b q = if clear = true ∧ .clear b ∉ q.bus.list ++ q.bus.turn.rest then
      { q with bus := { q.bus with list := q.bus.list ++ [.clear b] } } else q := by
  cases clear with
  | false => simp [askClear]
  | true =>
    by_cases hwaits : Item.clear b ∈ q.bus.list ++ q.bus.turn.rest
    · rw [if_neg (not_and_not_right.2 fun _ => hwaits)]
      exact ask_clear_waiting hwaits
    · rw [if_pos ⟨rfl, hwaits⟩]
      exact ask_clear_new hwaits

theorem removeMember_eq {n : SessionNum} {x : Session} {p : Part} (hx : p.engine.sessions[n] = some x) (b : BayNum) :
    removeMember n b p = setSession n (some { x with members := x.members.filter fun m => m.bay ≠ b }) p :=
  modSession_some hx _

/-- R83, R84: the count of failures of a bay. -/
theorem countFailure_eq (b : BayNum) (q : Part) :
    countFailure b q = if q.bays[b].failures + 1 < 3 then
        { q with bays := put q.bays b { q.bays[b] with failures := q.bays[b].failures + 1 } }
      else raise .bay { q with
        bays := put q.bays b { q.bays[b] with failures := 3, enabled := false, disablePending := false } } := by
  unfold countFailure
  by_cases h : q.bays[b].failures + 1 < 3
  · rw [if_pos h, if_neg (Nat.not_le.2 h)]
    rfl
  · rw [if_neg h, if_pos (Nat.not_lt.1 h)]
    rfl

theorem failDisc_failures {d : Disc} {b : BayNum} (hb : d.position = .bay b) (why : RejectReason) (p : Part) :
    (failDisc d why p).bays[b].failures = p.bays[b].failures := by
  simp only [failDisc_inBay hb, addOrder_keeps, modBay_keeps, put_get_self, Bay.holding, modDisc_keeps]

theorem reportDropped_stays {b : BayNum} {d : Disc} {why : RejectReason} {p : Part} (hd : discInBay p b = some d)
    (h : d.state = .failed) : reportDropped b why p = p := by
  have hleaves : dropLeaves why d.state = false := by simp [dropLeaves, h]
  simp only [reportDropped, hd, hleaves, Bool.false_eq_true, if_false]

theorem reportDropped_fails {b : BayNum} {d : Disc} {why : RejectReason} {p : Part} (hd : discInBay p b = some d)
    (h : d.state = .burning ∨ why = .calibration ∧ d.state = .loaded) :
    reportDropped b why p = countFailure b (failDisc d why p) := by
  have hleaves : dropLeaves why d.state = true := by
    simpa only [dropLeaves, Bool.or_eq_true, Bool.and_eq_true, decide_eq_true_eq] using h
  simp only [reportDropped, hd, hleaves, if_true]

/-! ## The deadlines (R122, R128) -/

theorem prepareExpires_drops {n : SessionNum} {x : Session} {p : Part} (hx : p.engine.sessions[n] = some x)
    (hstate : x.state = .preparing) (hruns : x.prepare.isSome = true) :
    prepareExpires n p = settle (judgePrepared n (reap n (dropMembers n .calibration true (awaiting x)
      (setSession n (some { x with prepare := none }) p)))) := by
  have htest : (decide (x.state = .preparing) && x.prepare.isSome) = true := by simp [hstate, hruns]
  simp only [prepareExpires, hx]
  rw [if_pos htest, modSession_some hx]

theorem closeExpires_drops {n : SessionNum} {x : Session} {p : Part} (hx : p.engine.sessions[n] = some x)
    (hstate : x.state = .closing) (hruns : x.close.isSome = true) :
    closeExpires n p = settle (reap n (dropMembers n .burnError true (x.members.map (·.bay))
      (setSession n (some { x with close := none }) p))) := by
  have htest : (decide (x.state = .closing) && x.close.isSome) = true := by simp [hstate, hruns]
  simp only [closeExpires, hx]
  rw [if_pos htest, modSession_some hx]

/-! ## The end of a session (R131) -/

theorem reap_empty {n : SessionNum} {x : Session} {p : Part} (hx : p.engine.sessions[n] = some x)
    (h : x.members = []) : reap n p = placeWaiting (endSession n p).engine.waiting.length (endSession n p) := by
  refine if_pos ?_
  simp only [isEmptySession, hx, h, List.isEmpty_nil]

theorem reap_none {n : SessionNum} {p : Part} (h : p.engine.sessions[n] = none) : reap n p = p := by
  refine if_neg ?_
  simp only [isEmptySession, h, Bool.false_eq_true, not_false_eq_true]

/-- The items of a session. -/
def itemsOf (n : SessionNum) : List Item := [.prepare n, .go n, .close n, .readyPoll n]

theorem ofSession_iff (n : SessionNum) (it : Item) : it.ofSession n = true ↔ it ∈ itemsOf n := by
  cases it <;> simp [Item.ofSession, itemsOf]

theorem filter_ofSession (n : SessionNum) (its : List Item) :
    (its.filter fun i => !i.ofSession n) = its.filter (· ∉ itemsOf n) := by
  refine List.filter_congr fun i _ => ?_
  rw [Bool.eq_iff_iff, Bool.not_eq_true', decide_eq_true_iff, ← ofSession_iff, Bool.not_eq_true]

/-- What is on the bus for an ended session is told to no one. -/
theorem live_ofSession (n : SessionNum) (it : Item) (live : Bool) (offer : Offer) :
    (if it.ofSession n = true then (⟨it, false, offer⟩ : Current) else ⟨it, live, offer⟩) =
      ⟨it, if it ∈ itemsOf n then false else live, offer⟩ := by
  by_cases h : it.ofSession n = true
  · rw [if_pos h, if_pos ((ofSession_iff n it).1 h)]
  · rw [if_neg h, if_neg (mt (ofSession_iff n it).2 h)]

theorem live_unless (m n : SessionNum) (live : Bool) : (live && decide (m ≠ n)) = if m = n then false else live := by
  by_cases h : m = n
  · simp [h]
  · simp [h]

theorem endSession_eq (n : SessionNum) (p : Part) :
    endSession n p =
      let q := leaveRing (.broadcast n) p
      { q with
        engine := { q.engine with sessions := put q.engine.sessions n none }
        bus := { q.bus with list := p.bus.list.filter (· ∉ itemsOf n), turn := p.bus.turn.forgetSession n } } := by
  rw [← filter_ofSession]
  rfl

/-! ## The waiting bays (R117) -/

theorem jobInBay_eq_some {p : Part} {b : BayNum} {j : JobNum} : jobInBay p b = some j ↔
    ∃ id d, p.bays[b].disc = some id ∧ findDisc p id = some d ∧ d.job = some j := by
  simp only [jobInBay, discInBay, Option.bind_eq_some_iff]
  constructor
  · rintro ⟨d, ⟨id, hid, hd⟩, hj⟩
    exact ⟨id, d, hid, hd, hj⟩
  · rintro ⟨id, d, hid, hd, hj⟩
    exact ⟨d, ⟨id, hid, hd⟩, hj⟩

theorem placeable_iff (p : Part) (b : BayNum) :
    placeable p b = true ↔ ∃ j, jobInBay p b = some j ∧ placeIn p j b ≠ none := by
  unfold placeable
  cases jobInBay p b with
  | none => simp
  | some j => simp [Option.isSome_iff_ne_none]

theorem placeWaiting_none {p : Part} (h : ∀ b ∈ p.engine.waiting, ¬ placeable p b = true) (k : Nat) :
    placeWaiting k p = p := by
  cases k with
  | zero => rfl
  | succ k => rw [placeWaiting, List.find?_eq_none.2 h]

theorem placeWaiting_first {p q : Part} {before after : List BayNum} {b : BayNum} {j : JobNum} {n : SessionNum}
    (hwaiting : p.engine.waiting = before ++ b :: after) (hbefore : ∀ c ∈ before, ¬ placeable p c = true)
    (hj : jobInBay p b = some j) (hq : placeIn p j b = some (n, q)) (k : Nat) :
    let r := judgeFull n { q with engine := { q.engine with waiting := q.engine.waiting.filter (· ≠ b) } }
    placeWaiting (k + 1) p = placeWaiting k (if prospectLost r n then leaveGathering n r else r) := by
  have hfirst : p.engine.waiting.find? (placeable p) = some b :=
    List.find?_eq_some_iff_append.2 ⟨(placeable_iff p b).2 ⟨j, hj, by rw [hq]; exact Option.some_ne_none _⟩,
      before, after, hwaiting, fun c hc => by simpa using hbefore c hc⟩
  have hplace : ((jobInBay p b).bind fun j => placeIn p j b) = some (n, q) := by rw [hj, Option.bind_some, hq]
  simp only [placeWaiting, hfirst, hplace]

/-- Settles O41: the deadlines, the drop, the end, and the waiting bays. -/
theorem deadlinesDropMembers : Obligations.DeadlinesDropMembers := by
  unfold Obligations.DeadlinesDropMembers
  refine ⟨fun n x s hheld hx => ?_, dropMembers_foldl, ?_, fun n x p hx => ?_, ?_, fun p => ?_⟩
  · intro p holds
    refine ⟨fun hstate hruns => ?_, fun hstate hruns =>
      event_happens_of (f := closeExpires n) hheld rfl (closeExpires_drops hx hstate hruns)⟩
    intro late
    exact event_happens_of (f := prepareExpires n) hheld rfl (prepareExpires_drops hx hstate hruns)
  · intro n x b d why clear p hx hb hd left off clears
    have hdisc : discInBay off b = some d := discInBay_some (by exact hb) hd
    have hdrop : dropMember n b why clear p = askClear clear b (reportDropped b why off) := by
      rw [dropMember, removeMember_eq hx]
      rfl
    have hclears : ∀ q : Part, q.bus = p.bus → askClear clear b q = clears q := by
      intro q hq
      rw [askClear_eq, hq]
    refine ⟨fun hstate => ?_, fun hposition hstate => ?_⟩
    · rw [hdrop, reportDropped_stays hdisc hstate]
      exact hclears off rfl
    · intro q fails becomes
      have hcount : countFailure b q = if fails < 3 then becomes { q.bays[b] with failures := fails } else
          raise .bay (becomes { q.bays[b] with failures := 3, enabled := false, disablePending := false }) := by
        rw [countFailure_eq, show q.bays[b].failures = p.bays[b].failures from failDisc_failures hposition why off]
      have hbus : (countFailure b q).bus = p.bus := by simp only [countFailure_keeps, q, failDisc_keeps]; rfl
      rw [hdrop, reportDropped_fails hdisc hstate, hclears _ hbus, hcount]
  · intro q
    exact ⟨reap_members hx, reap_empty hx⟩
  · intro n p q its ends
    have hends : ∀ {turn}, p.bus.turn.forgetSession n = turn → ends turn := by
      rintro _ rfl
      exact endSession_eq n p
    refine ⟨reap_none, fun h => hends ?_, fun rest h => hends ?_, fun it live offer rest h => hends ?_,
      fun m live i data h => hends ?_, fun k live h => hends ?_⟩
    · rw [h]; rfl
    · rw [h]
      exact congrArg (Turn.round none) (filter_ofSession n rest)
    · rw [h]
      exact congrArg₂ (fun c r => Turn.round (some c) r) (live_ofSession n it live offer) (filter_ofSession n rest)
    · rw [h]
      exact congrArg (fun l => Turn.block m l i data) (live_unless m n live)
    · rw [h]; rfl
  · intro names fits
    have hfits : ∀ b, placeable p b = true ↔ fits b := fun b => (placeable_iff p b).trans
      (exists_congr fun j => and_congr_left fun _ => jobInBay_eq_some)
    refine ⟨rfl, fun hnone k => placeWaiting_none (fun b hb => mt (hfits b).1 (hnone b hb)) k, ?_⟩
    intro k before b after j n q hwaiting hbefore hj hq r lost
    have hfirst := placeWaiting_first hwaiting (fun c hc => mt (hfits c).1 (hbefore c hc)) (jobInBay_eq_some.2 hj) hq k
    have hlost : prospectLost r n = true ↔ lost := prospectLost_iff r n
    refine ⟨fun h => hfirst.trans (congrArg _ (if_pos (hlost.2 h))),
      fun h => hfirst.trans (congrArg _ (if_neg (mt hlost.1 h)))⟩

end Sys2Proof.Machine
end

section
/-!
PROOFS. What a status record does to a session (R121, R127, R129), and a member that has burned (R83, R127).
-/

namespace Sys2Proof.Machine

/-! ## The record of a member's bay -/

theorem engineRecord_notMember {p : Part} {b : BayNum} (h : sessionOf p b = none) (r : StatusRecord) :
    engineRecord b r p = p := by
  simp only [engineRecord, h]

/-- R121: the member has answered. -/
def Session.answered (b : BayNum) (x : Session) : Session :=
  { x with members := x.members.map fun m => if m.bay = b then { m with prepared := true } else m }

section
variable {p : Part} {n : SessionNum} {x : Session} {b : BayNum} {r : StatusRecord}

theorem engineRecord_prepared (hn : sessionOf p b = some n) (hx : p.engine.sessions[n] = some x)
    (hstate : x.state = .preparing) (hruns : x.prepare.isSome = true) (hdrive : r.driveState = .prepared) :
    engineRecord b r p = if r.mediaPresent = some x.media then judgePrepared n (setSession n (some (x.answered b)) p)
      else judgePrepared n (reap n (dropMember n b .calibration true p)) := by
  have hprepare : ¬ x.prepare.isNone = true := by simpa [Option.isSome_iff_ne_none] using hruns
  simp only [engineRecord, hn, hx, hstate, hdrive, if_neg hprepare, modSession_some hx, Session.answered]

theorem engineRecord_prepareFailed (hn : sessionOf p b = some n) (hx : p.engine.sessions[n] = some x)
    (hstate : x.state = .preparing) (hruns : x.prepare.isSome = true) (hdrive : r.driveState = .prepareFailed) :
    engineRecord b r p = judgePrepared n (reap n (dropMember n b .calibration false p)) := by
  have hprepare : ¬ x.prepare.isNone = true := by simpa [Option.isSome_iff_ne_none] using hruns
  simp only [engineRecord, hn, hx, hstate, hdrive, if_neg hprepare]

theorem engineRecord_burnFailed (hn : sessionOf p b = some n) (hx : p.engine.sessions[n] = some x)
    (hstate : x.state = .priming ∨ x.state = .streaming ∨ x.state = .closing) (hdrive : r.driveState = .burnFailed) :
    engineRecord b r p = reap n (dropMember n b .burnError false p) := by
  simp only [engineRecord, hn, hx, hdrive]
  rcases hstate with h | h | h
  · simp only [h]
  · simp only [h]
  · simp only [h]

theorem engineRecord_burnDone (hn : sessionOf p b = some n) (hx : p.engine.sessions[n] = some x)
    (hstate : x.state = .closing) (hruns : x.close.isSome = true) (hdrive : r.driveState = .burnDone) :
    engineRecord b r p = memberBurned n b r.stallCount.toNat p := by
  have hclose : ¬ x.close.isNone = true := by simpa [Option.isSome_iff_ne_none] using hruns
  simp only [engineRecord, hn, hx, hstate, hdrive, if_neg hclose]

/-- A record that counts for nothing in the state its session is in. -/
theorem engineRecord_discarded (hn : sessionOf p b = some n) (hx : p.engine.sessions[n] = some x)
    (h : x.state = .gathering ∨
      (x.state = .preparing ∧ (x.prepare = none ∨ (r.driveState ≠ .prepared ∧ r.driveState ≠ .prepareFailed))) ∨
      ((x.state = .priming ∨ x.state = .streaming ∨ x.state = .closing) ∧ r.driveState ≠ .burnFailed ∧
        (r.driveState ≠ .burnDone ∨ x.state ≠ .closing ∨ x.close = none))) : engineRecord b r p = p := by
  simp only [engineRecord, hn, hx]
  split
  case h_7 => rfl
  all_goals simp_all

end

/-! ## All members PREPARED (R121, R123) -/

theorem judgePrepared_primes {p : Part} {n : SessionNum} {x : Session} (hx : p.engine.sessions[n] = some x)
    (hstate : x.state = .preparing) (hmembers : x.members ≠ []) (hall : ∀ m ∈ x.members, m.prepared = true) :
    judgePrepared n p = enterRing (.broadcast n) (setSession n (some { x with
      state := .priming, primeCount := some (min p.engine.settings.primeSetting x.blockCount)
      prepare := none, stall := none, laggardPoll := false }) p) := by
  have htest : (decide (x.state = .preparing) && !x.members.isEmpty && x.members.all (·.prepared)) = true := by
    rw [isEmpty_of_ne hmembers, List.all_eq_true.2 hall, hstate]
    rfl
  simp only [judgePrepared, hx]
  rw [if_pos htest]

theorem judgePrepared_waits {p : Part} {n : SessionNum} {x : Session} (hx : p.engine.sessions[n] = some x)
    (h : ∃ m ∈ x.members, m.prepared = false) : judgePrepared n p = p := by
  obtain ⟨m, hm, hprepared⟩ := h
  simp only [judgePrepared, hx]
  refine if_neg ?_
  rw [Bool.and_eq_true, List.all_eq_true]
  rintro ⟨_, hall⟩
  rw [hall m hm] at hprepared
  cases hprepared

theorem enterRing_eq (e : RingEntry) (p : Part) :
    enterRing e p = { p with bus := { p.bus with
      ring := if e ∈ p.bus.ring then p.bus.ring else p.bus.ring ++ [e], fruitless := [] } } := by
  simp only [enterRing, List.contains_iff_mem]

/-! ## A member that has burned (R127) -/

theorem memberBurned_eq {p : Part} {n : SessionNum} {x : Session} {b : BayNum} {d : Disc} {stalls : Nat}
    (hx : p.engine.sessions[n] = some x) (hb : p.bays[b].disc = some d.id) (hd : findDisc p d.id = some d)
    (hstate : d.state = .burning) :
    memberBurned n b stalls p = reap n (afterBurned b (modBay b (fun x => { x with failures := 0 })
      (enterState d .burned (fun x => { x with stalls := some stalls, session := none })
        (setSession n (some { x with members := x.members.filter fun m => m.bay ≠ b }) p)))) := by
  have hdisc : discInBay (setSession n (some { x with members := x.members.filter fun m => m.bay ≠ b }) p) b = some d :=
    discInBay_some (by exact hb) hd
  simp only [memberBurned, removeMember_eq hx, hdisc]
  rw [if_pos hstate]

/-- R113: a bay is a member of one session at most. -/
theorem joined_unique {p : Part} {b : BayNum} {m n : SessionNum} (h : BaysOnce p.engine) (hm : Joined p b m)
    (hn : Joined p b n) : m = n := by
  obtain ⟨x, hx, c, hc, hcb⟩ := hm
  obtain ⟨y, hy, d, hd, hdb⟩ := hn
  by_contra hne
  exact h.apart m n x y hx hy hne c hc d hd (hcb.trans hdb.symm)

/-- Settles O43: the record by the state of its session. -/
theorem preparedRecordsAreJudged : Obligations.PreparedRecordsAreJudged := by
  unfold Obligations.PreparedRecordsAreJudged
  refine ⟨?_, fun p n x hx hstate => ⟨?_, judgePrepared_waits hx⟩,
    fun p b honce => ⟨fun n x hx hmem => ?_, fun h => ?_⟩,
    fun p b r h => engineRecord_notMember h r, ?_, ?_⟩
  · intro p n x b r hn hx hstate hruns holds
    exact ⟨fun hdrive hmedia => (engineRecord_prepared hn hx hstate hruns hdrive).trans (if_pos hmedia),
      fun hdrive hmedia => (engineRecord_prepared hn hx hstate hruns hdrive).trans (if_neg hmedia),
      engineRecord_prepareFailed hn hx hstate hruns⟩
  · intro hmembers hall prime
    rw [judgePrepared_primes hx hstate hmembers hall, enterRing_eq]
    rfl
  · have hjoined : Joined p b n := ⟨x, hx, hmem⟩
    exact sessionOf_some hjoined fun m hm hother => absurd (joined_unique honce hother hjoined) (ne_of_lt hm)
  · refine sessionOf_notJoined ?_
    rintro n ⟨x, hx, m, hm, hmb⟩
    exact h n x hx m hm hmb
  · intro p n x b r hn hx writes
    exact ⟨fun hdrive hstate => engineRecord_burnFailed hn hx hstate hdrive,
      fun hdrive hstate hruns => engineRecord_burnDone hn hx hstate hruns hdrive, engineRecord_discarded hn hx⟩
  · intro p n x b d stalls hx hb hd hstate hposition
    rw [memberBurned_eq hx hb hd hstate, enterState_inBay hposition]
    simp only [modBay, put_get_self, put_put]
    rfl

end Sys2Proof.Machine
end

section
/-!
PROOFS. Readbacks: their blocks, their ends, grading, and the verify queue (R136 to R148).
-/

namespace Sys2Proof.Machine

/-! ## The check of a block (R140 to R142) -/

section
variable {k : PlaceNum} {r : Readback} {h : HeldBlock} {rest : List HeldBlock} {p : Part}

theorem processBlock_unreadable (hr : p.verifier.places[k] = some r) (hheld : r.held = h :: rest)
    (htrailer : h.trailer = 255#8) : processBlock k p = endEarly k .verifyUnreadable p := by
  simp only [processBlock, hr, hheld, htrailer, if_true]

theorem processBlock_within (hr : p.verifier.places[k] = some r) (hheld : r.held = h :: rest)
    (htrailer : h.trailer ≠ 255#8) (hchunk : r.processed % 32 ≠ 31) (hlast : r.processed + 1 ≠ r.blockCount) :
    processBlock k p = setPlace k (some (r.takeBlock h rest)) p := by
  have hcount : (r.takeBlock h rest).blockCount = r.blockCount := rfl
  simp only [processBlock, hr, hheld, if_neg htrailer, hcount, hchunk, hlast, decide_false, Bool.or_self,
    Bool.false_eq_true, if_false]

theorem processBlock_chunk (hr : p.verifier.places[k] = some r) (hheld : r.held = h :: rest)
    (htrailer : h.trailer ≠ 255#8) (hchunk : r.processed % 32 = 31 ∨ r.processed + 1 = r.blockCount) :
    processBlock k p =
      if slotDigest p r.slot (r.processed / 32) = some (crc32Finish (r.takeBlock h rest).crc) then
        if r.processed + 1 = r.blockCount then
          gradeReadback k (r.takeBlock h rest).endChunk (setPlace k (some (r.takeBlock h rest).endChunk) p)
        else setPlace k (some (r.takeBlock h rest).endChunk) p
      else endEarly k .verifyMismatch p := by
  have htest : (decide (r.processed % 32 = 31) || decide (r.processed + 1 = r.blockCount)) = true := by
    simpa only [Bool.or_eq_true, decide_eq_true_eq] using hchunk
  have hcount : (r.takeBlock h rest).blockCount = r.blockCount := rfl
  have hslot : (r.takeBlock h rest).slot = r.slot := rfl
  simp only [processBlock, hr, hheld, if_neg htrailer, hcount, hslot, htest, if_true]

end

theorem slotDigest_eq_some {p : Part} {n : SlotNum} {chunk : Nat} {c : Crc32} :
    slotDigest p n chunk = some c ↔ ∃ x, p.slots[n] = some x ∧ x.digests[chunk]? = some c := by
  unfold slotDigest
  cases p.slots[n] with
  | none => simp
  | some x => simp

/-! ## The ends of a readback (R143, R144, R148) -/

theorem modDisc_id (id : Nat) (p : Part) : modDisc id (fun d => d) p = p := by
  simp only [modDisc, ite_self, List.map_id']

theorem failVerify_fails {id : Nat} {d : Disc} {p : Part} (hd : findDisc p id = some d) (h : d.state = .verifying)
    (why : RejectReason) (f : Disc → Disc) : failVerify id why f p = failDisc d why (modDisc d.id f p) := by
  simp only [failVerify, hd, h, if_true, findDisc_id hd]

theorem endEarly_eq {k : PlaceNum} {r : Readback} {d : Disc} {p : Part} (hr : p.verifier.places[k] = some r)
    (hd : findDisc p r.disc = some d) (h : d.state = .verifying) (why : RejectReason) :
    endEarly k why p = startReadbacks (setPlace k none (ask (.clear r.bay) (failDisc d why (busForgetPlace k p)))) := by
  have hfails : failVerify r.disc why id (busForgetPlace k p) = failDisc d why (busForgetPlace k p) := by
    rw [failVerify_fails (by exact hd) h]
    exact congrArg (failDisc d why) (modDisc_id ..)
  simp only [endEarly, hr, hfails]

theorem ofPlace_iff (k : PlaceNum) (it : Item) : it.ofPlace k = true ↔ it = .readback k := by
  cases it <;> simp [Item.ofPlace]

theorem filter_ofPlace (k : PlaceNum) (its : List Item) :
    (its.filter fun i => !i.ofPlace k) = its.filter (· ≠ .readback k) := by
  refine List.filter_congr fun i _ => ?_
  rw [Bool.eq_iff_iff, Bool.not_eq_true', decide_eq_true_iff, ne_eq, ← ofPlace_iff, Bool.not_eq_true]

theorem live_ofPlace (k : PlaceNum) (it : Item) (live : Bool) (offer : Offer) :
    (if it.ofPlace k = true then (⟨it, false, offer⟩ : Current) else ⟨it, live, offer⟩) =
      ⟨it, if it = .readback k then false else live, offer⟩ := by
  by_cases h : it.ofPlace k = true
  · rw [if_pos h, if_pos ((ofPlace_iff k it).1 h)]
  · rw [if_neg h, if_neg (mt (ofPlace_iff k it).2 h)]

theorem live_unlessPlace (j k : PlaceNum) (live : Bool) : (live && decide (j ≠ k)) = if j = k then false else live := by
  by_cases h : j = k
  · simp [h]
  · simp [h]

theorem busForgetPlace_eq (k : PlaceNum) (p : Part) :
    busForgetPlace k p = { leaveRing (.readback k) p with bus := { (leaveRing (.readback k) p).bus with
      list := p.bus.list.filter (· ≠ .readback k), turn := p.bus.turn.forgetPlace k } } := by
  rw [← filter_ofPlace]
  rfl

/-! ## Grading (R146, R147) -/

/-- The grade is below the limit of a job that grades. -/
def Worse (x : Job) (g : Grade) : Prop := x.defn.verify = .graded ∧ ∃ y, x.defn.gradeLimit = some y ∧ y.rank < g.rank

theorem gradeReadback_passes {k : PlaceNum} {r : Readback} {d : Disc} {x : Job} {p : Part} {g : Grade}
    (hd : findDisc p r.disc = some d) (h : d.state = .verifying) (hx : p.jobs[r.job] = some x)
    (hg : discGrade p.verifier.limits r.peak r.stalls x.defn.stallAllowance = g) (hworse : ¬ Worse x g) :
    gradeReadback k r p =
      removeReadback k (passDisc d (fun d => { d with grade := some g, peak := some r.peak }) p) := by
  simp only [gradeReadback, hx, hd, h, if_true, hg]
  refine congrArg (removeReadback k) (if_neg ?_)
  split
  · next lim hverify hlimit =>
    rw [decide_eq_true_iff]
    exact fun hlt => hworse ⟨hverify, lim, hlimit, hlt⟩
  · exact Bool.false_ne_true

theorem gradeReadback_fails {k : PlaceNum} {r : Readback} {d : Disc} {x : Job} {p : Part} {g : Grade}
    (hd : findDisc p r.disc = some d) (h : d.state = .verifying) (hx : p.jobs[r.job] = some x)
    (hg : discGrade p.verifier.limits r.peak r.stalls x.defn.stallAllowance = g) (hworse : Worse x g) :
    gradeReadback k r p =
      removeReadback k (failDisc d .grade
        (modDisc d.id (fun d => { d with grade := some g, peak := some r.peak }) p)) := by
  simp only [gradeReadback, hx, hd, h, if_true, hg]
  obtain ⟨hverify, lim, hlimit, hlt⟩ := hworse
  refine congrArg (removeReadback k) ((if_pos ?_).trans (failVerify_fails hd h _ _))
  rw [hverify, hlimit]
  exact decide_eq_true hlt

/-- The grade of a peak and a stall count, written out. -/
theorem discGrade_eq (lim : GradeLimits) (peak stalls allowance : Nat) :
    discGrade lim peak stalls allowance =
      if peak ≤ lim.la then (if allowance < stalls then .b else .a)
      else if peak ≤ lim.lb then (if allowance < stalls then .c else .b)
      else if peak ≤ lim.lc then (if allowance < stalls then .d else .c)
      else .d := by
  unfold discGrade peakGrade
  by_cases hlate : allowance < stalls
  · simp only [if_pos hlate]
    split
    · rfl
    · split
      · rfl
      · split <;> rfl
  · simp only [if_neg hlate]

/-! ## The verify queue (R136 to R138) -/

theorem joinVerify_eq (b : BayNum) (p : Part) :
    joinVerify b p = { p with verifier := { p.verifier with
      queue := if b ∈ p.verifier.queue then p.verifier.queue else p.verifier.queue ++ [b] } } := by
  simp only [joinVerify, List.contains_iff_mem]
  split
  · rfl
  · rfl

theorem startOne_idle {p : Part} (h : p.verifier.queue = [] ∨ ∀ k : PlaceNum, p.verifier.places[k] ≠ none) :
    startOne p = p := by
  unfold startOne
  split
  · next k b rest hlowest hqueue =>
    rcases h with h | h
    · rw [h] at hqueue
      cases hqueue
    · exact absurd (lowest_isNone hlowest) (h k)
  · rfl

theorem startOne_starts {k : PlaceNum} {b : BayNum} {rest : List BayNum} {d : Disc} {r : Readback} {p : Part}
    (hfree : p.verifier.places[k] = none) (hbefore : ∀ i : PlaceNum, i < k → p.verifier.places[i] ≠ none)
    (hqueue : p.verifier.queue = b :: rest) (hr : readbackFor p b = some (d, r)) :
    startOne p = ask (.readback k) (setPlace k (some r)
      (enterState d .verifying (fun d => d) { p with verifier := { p.verifier with queue := rest } })) := by
  have hlowest : lowest p.verifier.places Option.isNone = some k := lowest_free hfree hbefore
  simp only [startOne, hlowest, hqueue, hr]
  rfl

theorem readbackFor_some {b : BayNum} {d : Disc} {j : JobNum} {x : Job} {y : Slot} {p : Part}
    (hb : p.bays[b].disc = some d.id) (hd : findDisc p d.id = some d) (hstate : d.state = .verifyWait)
    (hj : d.job = some j) (hx : p.jobs[j] = some x) (hy : p.slots[x.defn.discSlot] = some y) :
    readbackFor p b = some (d, newReadback b d j x.defn.discSlot y) := by
  simp only [readbackFor, discInBay_some hb hd, Option.bind_eq_bind, Option.bind_some, hj, hx, hy, hstate, if_true]

/-- Settles O46: the verifier's steps, each by its own rule. -/
theorem readbackIsJudged : Obligations.ReadbackIsJudged := by
  unfold Obligations.ReadbackIsJudged
  refine ⟨?_, fun k r d s hheld hr hd hstate => ?_, ?_, fun d b f p hb => ?_, ?_, ?_, fun p => ⟨rfl, startOne_idle⟩, ?_⟩
  · intro k r h rest s hheld hr hblocks p last n y z agrees holds ends
    have processed : ∀ {q}, processBlock k p = q → ends q := fun h =>
      event_happens_of (f := fun p => settle (processBlock k p)) hheld rfl (congrArg settle h)
    have hagrees : slotDigest p r.slot (r.processed / 32) = some (crc32Finish y.crc) ↔ agrees := slotDigest_eq_some
    refine ⟨fun htrailer => processed (processBlock_unreadable hr hblocks htrailer),
      fun htrailer hchunk hlast => processed (processBlock_within hr hblocks htrailer hchunk hlast),
      fun htrailer hchunk => ?_⟩
    have hdone := processBlock_chunk hr hblocks htrailer hchunk
    exact ⟨fun hnot => processed (hdone.trans (if_neg (mt hagrees.1 hnot))),
      fun hyes hlast => processed (hdone.trans ((if_pos (hagrees.2 hyes)).trans (if_neg hlast))),
      fun hyes hlast => processed (hdone.trans ((if_pos (hagrees.2 hyes)).trans (if_pos hlast)))⟩
  · have hend := endEarly_eq hr hd hstate
    refine ⟨hend, fun hruns => ?_, fun hnone => ?_⟩
    · refine event_happens_of (f := silenceExpires k) hheld rfl ?_
      simp only [silenceExpires, hr, hruns, if_true]
    · refine event_happens_of (f := silenceExpires k) hheld rfl ?_
      simp only [silenceExpires, hr, hnone, Option.isSome_none, Bool.false_eq_true, if_false]
  · intro k p q ends
    have hends : ∀ {turn}, p.bus.turn.forgetPlace k = turn → ends turn := by
      rintro _ rfl
      exact ⟨busForgetPlace_eq k p, by rw [removeReadback, busForgetPlace_eq]; rfl⟩
    refine ⟨fun h => hends ?_, fun rest h => hends ?_, fun it live offer rest h => hends ?_,
      fun n live i data h => hends ?_, fun j live h => hends ?_⟩
    · rw [h]; rfl
    · rw [h]
      exact congrArg (Turn.round none) (filter_ofPlace k rest)
    · rw [h]
      exact congrArg₂ (fun c r => Turn.round (some c) r) (live_ofPlace k it live offer) (filter_ofPlace k rest)
    · rw [h]; rfl
    · rw [h]
      exact congrArg (Turn.talk j) (live_unlessPlace j k live)
  · rw [passDisc, enterState_inBay hb]
    rfl
  · intro k r d x p hd hstate hx lim late g note worse
    have hg : discGrade p.verifier.limits r.peak r.stalls x.defn.stallAllowance = g := discGrade_eq ..
    exact ⟨gradeReadback_passes hd hstate hx hg, gradeReadback_fails hd hstate hx hg⟩
  · intro b d j x p hb hd hposition hj hx
    have hjob : (d.job.bind fun j => p.jobs[j]) = some x := by rw [hj, Option.bind_some, hx]
    refine ⟨fun hverify => ?_, fun hverify => ?_⟩
    · simp only [afterBurned, discInBay_some hb hd, hjob, hverify]
    · simp only [afterBurned, discInBay_some hb hd, hjob]
      rw [joinVerify_eq, enterState_inBay hposition]
      rfl
  · intro k b rest d j x y p hfree hbefore hqueue hb hd hposition hstate hj hx hy
    rw [startOne_starts hfree hbefore hqueue (readbackFor_some hb hd hstate hj hx hy), enterState_inBay hposition]
    rfl

end Sys2Proof.Machine
end

section
/-!
PROOFS. Lines fired, labels that end, the hot timer, and the ribbon (R58, R158, R163, R164, R167, R168, R171).
-/

namespace Sys2Proof.Machine

/-! ## The cooling gap (R163) -/

theorem foldl_max_spec (l : List Nat) (a : Nat) :
    a ≤ l.foldl max a ∧ (∀ x ∈ l, x ≤ l.foldl max a) ∧ (l.foldl max a = a ∨ l.foldl max a ∈ l) := by
  induction l generalizing a with
  | nil => exact ⟨Nat.le_refl a, fun x hx => absurd hx List.not_mem_nil, .inl rfl⟩
  | cons y l ih =>
    obtain ⟨hinit, hall, hmem⟩ := ih (max a y)
    refine ⟨le_trans (Nat.le_max_left a y) hinit, fun x hx => ?_, ?_⟩
    · rcases List.mem_cons.1 hx with rfl | hx
      · exact le_trans (Nat.le_max_right a x) hinit
      · exact hall x hx
    · rcases hmem with h | h
      · rcases max_choice a y with hmax | hmax
        · exact .inl (h.trans hmax)
        · exact .inr (List.mem_cons.2 (.inl (h.trans hmax)))
      · exact .inr (List.mem_cons_of_mem y h)

/-- The longest time of a line that fired a dot is the time of one of its strobes. -/
theorem longest_spec {strobes : List Strobe} (h : strobes ≠ []) :
    (∀ e ∈ strobes, e.time ≤ longest strobes) ∧ ∃ e ∈ strobes, e.time = longest strobes := by
  obtain ⟨_, hall, hmem⟩ := foldl_max_spec (strobes.map (·.time)) 0
  refine ⟨fun e he => hall _ (List.mem_map_of_mem he), ?_⟩
  rcases hmem with hzero | hmem
  · obtain ⟨e, he⟩ := List.exists_mem_of_ne_nil strobes h
    have hle : e.time ≤ longest strobes := hall _ (List.mem_map_of_mem he)
    refine ⟨e, he, le_antisymm hle ?_⟩
    rw [longest, hzero]
    exact Nat.zero_le _
  · obtain ⟨e, he, htime⟩ := List.mem_map.1 hmem
    exact ⟨e, he, htime⟩

theorem gapAfter_runs {f : Firing} (h : f.strobes ≠ []) : gapAfter .half f = some (longest f.strobes) :=
  if_pos (by simp [isEmpty_of_ne h])

theorem gapAfter_none {pace : Pace} {f : Firing} (h : pace = .full ∨ f.strobes = []) : gapAfter pace f = none := by
  refine if_neg ?_
  rcases h with rfl | h
  · simp
  · simp [h]

/-! ## The end of a line (R158) -/

/-- The printer as a line's last class has fired. -/
def Printer.lineEnded (r : Printer) (x : Label) (f : Firing) : Printer :=
  { r with
    ribbon := r.ribbon - 1, label := some (x.advance f.printed), firing := none, gap := gapAfter r.pace f }

theorem lineFired_eq {p : Part} {x : Label} {f : Firing} (hx : p.printer.label = some x)
    (hf : p.printer.firing = some f) :
    lineFired p = if (gapAfter p.printer.pace f).isSome then { p with printer := p.printer.lineEnded x f }
      else settle (lineOver { p with printer := p.printer.lineEnded x f }) := by
  simp only [lineFired, hf, modPrinter, hx, Option.map_some]
  rfl

theorem lineOver_eq {p : Part} {y : Label} (hy : p.printer.label = some y) :
    lineOver p = if y.cursor = y.length then finishLabel p else p := by
  simp only [lineOver, hy]

/-! ## Labels (R163, R164) -/

theorem finishLabel_printing {d : Disc} {p : Part} (hb : p.printer.disc = some d.id) (hd : findDisc p d.id = some d)
    (hstate : d.state = .printing) (hposition : d.position = .tray) :
    finishLabel p = addOrder .printerToAccept d.id .tray .acceptBin
      (modDisc d.id (fun x => { x with printed := true, state := .printed })
        { p with printer := { p.printer with state := .doneWait, status := some .finished } }) := by
  have hd' : ∀ r, findDisc { p with printer := r } d.id = some d := fun r => hd
  simp only [finishLabel, modPrinter, hb, Option.bind_some, hd', hstate, if_true, enterState, followBay, hposition]

theorem abortLabel_underWay {d : Disc} {p : Part} {st : PrinterState} (hstatus : p.printer.status = some .underWay)
    (hb : p.printer.disc = some d.id) (hd : findDisc p d.id = some d) (hstate : d.state = .printing) :
    abortLabel st p = failDisc d .printFault (raise .printer { p with printer := { p.printer with
      state := st, status := some .aborted, hot := none, firing := none, gap := none } }) := by
  let q := raise .printer { p with printer := { p.printer with
    state := st, status := some .aborted, hot := none, firing := none, gap := none } }
  have hdisc : q.printer.disc.bind (findDisc q) = some d := by
    rw [show q.printer.disc = some d.id from hb, Option.bind_some]
    exact hd
  have hfails : failPrinting q = failDisc d .printFault q := by
    simp only [failPrinting, hdisc, hstate, if_true]
  exact (if_pos hstatus).trans hfails

/-- Settles O48: the end of a line, and of a label. -/
theorem linesAndLabelsEnd : Obligations.LinesAndLabelsEnd := by
  unfold Obligations.LinesAndLabelsEnd
  refine ⟨fun x s hheld hx => ?_, fun d p hb hd hstate hposition => ?_⟩
  · intro p holds
    refine ⟨fun f hf => ?_, fun hruns => ?_⟩
    · intro y r
      have hfired := lineFired_eq (p := p) hx hf
      have fired : ∀ {q}, lineFired p = q → Happens .lineFired s q := event_happens_of hheld rfl
      refine ⟨fun hpace hstrobes => ?_, fun h => ?_⟩
      · have hgap : gapAfter p.printer.pace f = some (longest f.strobes) := by rw [hpace]; exact gapAfter_runs hstrobes
        obtain ⟨hall, hone⟩ := longest_spec hstrobes
        refine ⟨longest f.strobes, hall, hone, fired (hfired.trans ?_)⟩
        rw [if_pos (by rw [hgap]; rfl), Printer.lineEnded, hgap]
        rfl
      · have hgap : gapAfter p.printer.pace f = none := gapAfter_none h
        have hended : p.printer.lineEnded x f = { r with gap := none } := by rw [Printer.lineEnded, hgap]; rfl
        rw [hgap, hended, lineOver_eq (y := y) rfl] at hfired
        exact ⟨fun hlast => fired (hfired.trans (congrArg settle (if_pos hlast))),
          fun hmore => fired (hfired.trans (congrArg settle (if_neg hmore)))⟩
    · have hends : gapEnds p = settle (lineOver (holds { p.printer with gap := none })) := if_pos hruns
      rw [lineOver_eq (y := x) (by exact hx)] at hends
      exact ⟨fun hlast => event_happens_of hheld rfl (hends.trans (congrArg settle (if_pos hlast))),
        fun hmore => event_happens_of hheld rfl (hends.trans (congrArg settle (if_neg hmore)))⟩
  · intro finished
    exact ⟨finishLabel_printing hb hd hstate hposition, fun st =>
      ⟨fun hstatus => abortLabel_underWay hstatus hb hd hstate, fun hstatus => if_neg hstatus⟩⟩

/-! ## Heat and ribbon (R167, R168, R171) -/

/-- What a printer whose ribbon is gone becomes (R171). -/
def ribbonGone (q : Part) : Part :=
  match q.printer.state with
  | .printing => abortLabel .pausedRibbon q
  | .pausedHot => abortLabel .pausedHot q
  | .idle => pausing (fun r => { r with state := .pausedRibbon }) q
  | _ => q

theorem ribbonBreaks_eq (p : Part) :
    ribbonBreaks p = settle (ribbonGone (modPrinter (fun r => { r with ribbon := 0 }) p)) :=
  rfl

/-- Settles O49: each event by the printer's state. -/
theorem heatAndRibbonActOnTheLabel : Obligations.HeatAndRibbonActOnTheLabel := by
  unfold Obligations.HeatAndRibbonActOnTheLabel
  refine ⟨fun s hheld => ?_, fun p => ?_⟩
  · intro p holds
    refine ⟨fun hruns => event_happens_of (f := hotExpires) hheld rfl (if_pos hruns),
      fun hnone => event_happens_of (f := hotExpires) hheld rfl
        (if_neg (by rw [show s.part.printer.hot = none from hnone]; simp)), ?_⟩
    intro bare breaks
    have broken : ∀ {q}, ribbonGone bare = q → breaks (settle q) := fun h =>
      event_happensSampling_of hheld rfl ((ribbonBreaks_eq p).trans (congrArg settle h))
    refine ⟨fun hstate => broken ?_, fun hstate => broken ?_, fun hstate => broken ?_, fun hstate => broken ?_⟩
    · simp only [ribbonGone, show bare.printer.state = .printing from hstate]
    · simp only [ribbonGone, show bare.printer.state = .pausedHot from hstate]
    · simp only [ribbonGone, show bare.printer.state = .idle from hstate]
      rfl
    · rcases hstate with hstate | hstate
      · simp only [ribbonGone, show bare.printer.state = .pausedRibbon from hstate]
      · simp only [ribbonGone, show bare.printer.state = .doneWait from hstate]
  · intro becomes
    refine ⟨fun h => if_neg h, fun hhot => ⟨fun hlabel => (if_pos hhot).trans (if_pos hlabel), fun hlabel => ?_⟩⟩
    have hcooled := (if_pos hhot : headCooled p = _).trans (if_neg hlabel)
    refine ⟨fun hribbon => hcooled.trans (if_pos hribbon), fun hribbon hdisc => ?_, fun hribbon hdisc => ?_⟩
    · exact hcooled.trans ((if_neg (Nat.ne_of_gt hribbon)).trans (if_pos (Option.isSome_iff_ne_none.2 hdisc)))
    · exact hcooled.trans ((if_neg (Nat.ne_of_gt hribbon)).trans (if_neg (by simp [hdisc])))

end Sys2Proof.Machine
end

section
/-!
PROOFS. The beginning of a line (R19, R155, R158 to R162).
-/

namespace Sys2Proof.Machine

/-! ## The artwork and the printed set (R155, R159) -/

theorem columns_getLsbD (test : Nat → Bool) {c : Nat} (h : c < 1440) : (columns test).getLsbD c = test c := by
  simp [columns, h]

/-- R19, R155: a byte of a raster line, blank from the declared length on. -/
theorem rasterLine_getD {m : List Host.Cell} (hm : Memory.wf m) (y : Slot) (n : Nat) {i : Nat} (h : i < 180) :
    (rasterLine m y n).getD i 0 = if n < y.length then readByte m (y.first * 2097152 + 180 * n + i) else 0 := by
  unfold rasterLine
  split
  · rw [readBytes_eq _ _ _ hm]
    simp [h]
  · exact List.getD_replicate _ h

theorem printedSet_getLsbD (s : PrintSettings) (line : List Byte) (y : Nat) {c : Nat} (h : c < 1440) :
    (printedSet s line y).getLsbD c = true ↔ (line.getD (c / 8) 0).getLsbD (7 - c % 8) = true ∧
      4 * (s.ri : Int) ^ 2 ≤ (2 * (c : Int) - 1439) ^ 2 + (2 * (y : Int) - 1439) ^ 2 ∧
      (2 * (c : Int) - 1439) ^ 2 + (2 * (y : Int) - 1439) ^ 2 ≤ 4 * (s.ro : Int) ^ 2 := by
  rw [printedSet, columns_getLsbD _ h]
  simp only [artworkDot, ringMask, radius2, Bool.and_eq_true]
  exact and_congr_right fun _ => and_congr decide_eq_true_iff decide_eq_true_iff

/-! ## Classes and strobes (R160, R162) -/

/-- R160: the class of a dot is read off the two lines before. -/
theorem classDots_getLsbD (printed h1 h2 : DotSet) (h : Fin 3) (c : Nat) :
    (classDots printed h1 h2 h).getLsbD c = true ↔
      printed.getLsbD c = true ∧ h = if h1.getLsbD c then 2 else if h2.getLsbD c then 1 else 0 := by
  by_cases hc : c < 1440
  · have hnot : ∀ d : DotSet, (~~~d).getLsbD c = !d.getLsbD c := fun d => by simp [hc]
    fin_cases h
    · simp only [classDots, BitVec.getLsbD_and, hnot]
      cases h1.getLsbD c <;> cases h2.getLsbD c <;> simp
    · simp only [classDots, BitVec.getLsbD_and, hnot]
      cases h1.getLsbD c <;> cases h2.getLsbD c <;> simp
    · simp only [classDots, BitVec.getLsbD_and]
      cases h1.getLsbD c <;> cases h2.getLsbD c <;> simp
  · have hnone : ∀ d : DotSet, d.getLsbD c = false := fun d => BitVec.getLsbD_of_ge d c (Nat.not_lt.1 hc)
    simp only [hnone, Bool.false_eq_true, false_and]

theorem mem_strobesOf {printed h1 h2 : DotSet} {time : Fin 3 → Nat} {e : Strobe} :
    e ∈ strobesOf printed h1 h2 time ↔
      e.dots = classDots printed h1 h2 e.cls ∧ e.dots ≠ 0 ∧ e.time = time e.cls := by
  simp only [strobesOf, List.mem_filterMap, List.mem_finRange, true_and]
  constructor
  · rintro ⟨h, hh⟩
    split at hh
    · cases hh
    · next hne =>
      cases hh
      exact ⟨rfl, hne, rfl⟩
  · rintro ⟨hdots, hne, htime⟩
    refine ⟨e.cls, ?_⟩
    rw [if_neg (hdots ▸ hne), ← hdots, ← htime]

theorem strobesOf_pairwise (printed h1 h2 : DotSet) (time : Fin 3 → Nat) :
    ((strobesOf printed h1 h2 time).map (·.cls)).Pairwise (· < ·) := by
  refine List.pairwise_map.2 ((List.pairwise_lt_finRange 3).filterMap _ ?_)
  intro a b hab e he f hf
  split at he
  · cases he
  · split at hf
    · cases hf
    · cases he
      cases hf
      exact hab

theorem strobesOf_getLsbD {printed h1 h2 : DotSet} {time : Fin 3 → Nat} (h : Fin 3) (c : Nat) :
    (∃ e ∈ strobesOf printed h1 h2 time, e.cls = h ∧ e.dots.getLsbD c = true) ↔
      printed.getLsbD c = true ∧ h = if h1.getLsbD c then 2 else if h2.getLsbD c then 1 else 0 := by
  rw [← classDots_getLsbD]
  constructor
  · rintro ⟨e, he, rfl, hdot⟩
    rwa [(mem_strobesOf.1 he).1] at hdot
  · intro hdot
    have hne : classDots printed h1 h2 h ≠ 0 := by
      intro hzero
      rw [hzero] at hdot
      simp at hdot
    exact ⟨⟨h, classDots printed h1 h2 h, time h⟩, mem_strobesOf.2 ⟨rfl, hne, rfl⟩, rfl, hdot⟩

/-! ## The line begins (R158) -/

theorem paceOf_eq (c : Condition) : paceOf c = if c = .normal then .full else .half := by
  cases c <;> rfl

theorem execLineBegin_begins {v : Int} {x : Label} {y : Slot} {s : State} (hheld : s.part.held = false)
    (hx : s.part.printer.label = some x) (hboundary : atBoundary s.part.printer = true)
    (hy : s.part.slots[x.slot] = some y) (hin : y.inMemory = true) :
    exec (.lineBegin v) s = .next { s with part := beginLine s.mem x v s.part } := by
  have hexec : exec (.lineBegin v) s = execLineBegin v s := rfl
  have hmemory : labelInMemory s.part x = true := by simp only [labelInMemory, hy, hin]
  simp only [hexec, execLineBegin, hx, hheld, hboundary, hmemory]
  rfl

/-- Settles O47: the ribbon, HEAD, and the line that is fired. -/
theorem lineBegins : Obligations.LineBegins := by
  unfold Obligations.LineBegins
  intro v x y s hheld hx hstate hfiring hgap hy hin p q sampled head
  have hboundary : atBoundary s.part.printer = true := by simp [atBoundary, hstate, hfiring, hgap]
  have begins : ∀ {r}, beginLine s.mem x v p = r → Happens (.lineBegin v) s r := by
    rintro _ rfl
    exact happens_next (execLineBegin_begins hheld hx hboundary hy (decide_eq_true hin))
  have hprinter : sampled.printer = p.printer := by simp only [sampled, sampleHead_keeps]
  have hslots : sampled.slots = p.slots := by simp only [sampled, sampleHead_keeps]
  refine ⟨fun hribbon => begins (if_pos hribbon), fun hribbon hcritical => ?_, fun hribbon hcool hwf => ?_⟩
  · refine begins ((if_neg (Nat.ne_of_gt hribbon)).trans ((if_pos hcritical).trans ?_))
    simp only [pausing, modPrinter]
    rw [show (sampleHead v p).printer = p.printer from hprinter]
  · intro r f time line
    have hline : lineOf s.mem sampled x = rasterLine s.mem y x.cursor := by
      simp only [lineOf, hslots, show p.slots[x.slot] = some y from hy]
    have hbegin : beginLine s.mem x v p = modPrinter (fireLine (lineOf s.mem sampled x) x q (paceOf head)) sampled :=
      (if_neg (Nat.ne_of_gt hribbon)).trans (if_neg hcool)
    refine ⟨printedSet r (rasterLine s.mem y x.cursor) x.cursor,
      strobesOf (printedSet r (rasterLine s.mem y x.cursor) x.cursor) x.history1 x.history2 time, fun c hc => ?_,
      fun e he => ?_, strobesOf_pairwise .., fun h c => strobesOf_getLsbD h c, begins (hbegin.trans ?_)⟩
    · rw [printedSet_getLsbD _ _ _ hc, rasterLine_getD hwf y x.cursor (by omega)]
    · obtain ⟨-, hne, htime⟩ := mem_strobesOf.1 he
      exact ⟨htime, hne⟩
    · rw [hline, modPrinter, hprinter, paceOf_eq]
      rfl

end Sys2Proof.Machine
end
